-- ==== Sys2Proof/Word.lean ====
section
/-!
DEFINITION. The unsigned words of the core (00_scope.md R5, R7: `VLEN` = 8, `ALEN` = 16; every value is unsigned).
-/

namespace Sys2Proof

/-- A `V` register, a memory byte, a timer (`VLEN`, R5). -/
abbrev Byte := BitVec 8

/-- `I`, `pc`, `opcode`, a stack slot (`ALEN`, R5). -/
abbrev Word := BitVec 16

/-- The number of a `V` register: the field `x` or `y` of an instruction (R91). -/
abbrev Reg := Fin 16

/-- The number of a key of the keypad (R32). -/
abbrev Key := Fin 16

end Sys2Proof
end

