-- ==== Sys2Proof/Machine/Flags.lean ====
section
/-!
DEFINITION. The values the flag writers put into `V[0xF]` (10_state.md R22, 41_alu.md R151), 0 or 1 as a byte.
-/

namespace Sys2Proof.Machine

/-- A condition as the byte 1 or 0. -/
def flagByte (c : Bool) : Byte := if c then 1 else 0

/-- The carry of `8xy4`: `a + b > 255` on the unbounded sum (R146). -/
def carryFlag (a b : Byte) : Byte := flagByte (decide (a.toNat + b.toNat > 255))

/-- The not-borrow flag of `a - b` (R147, R149): 1 when `a >= b`. -/
def notBorrowFlag (a b : Byte) : Byte := flagByte (decide (a.toNat ≥ b.toNat))

/-- The bit `8xy6` shifts out (R148). -/
def lowBitFlag (a : Byte) : Byte := a &&& 1

/-- The bit `8xyE` shifts out (R150). -/
def highBitFlag (a : Byte) : Byte := a >>> 7

end Sys2Proof.Machine
end

