-- ==== Sys2Proof/Syntax.lean ====
section
/-!
DEFINITION. The 34 instructions of the opcode map (30_encoding.md R100), one constructor per row of spec/opcode_table.json.
An operand has exactly the width of its field (R91), so the type admits no operand that no word encodes.
-/

namespace Sys2Proof

inductive Instr where
  /-- `00E0`: clear the framebuffer. -/
  | cls
  /-- `00EE`: return from subroutine. -/
  | ret
  /-- `1nnn`: jump. -/
  | jp (nnn : BitVec 12)
  /-- `2nnn`: call subroutine. -/
  | call (nnn : BitVec 12)
  /-- `3xnn`: skip if `V[x]` equals the immediate. -/
  | seImm (x : Reg) (nn : Byte)
  /-- `4xnn`: skip if `V[x]` differs from the immediate. -/
  | sneImm (x : Reg) (nn : Byte)
  /-- `5xy0`: skip if registers equal. -/
  | seReg (x y : Reg)
  /-- `6xnn`: load immediate. -/
  | ldImm (x : Reg) (nn : Byte)
  /-- `7xnn`: add immediate, no flag. -/
  | addImm (x : Reg) (nn : Byte)
  /-- `8xy0`: register copy. -/
  | ldReg (x y : Reg)
  /-- `8xy1`: or, flag cleared. -/
  | orReg (x y : Reg)
  /-- `8xy2`: and, flag cleared. -/
  | andReg (x y : Reg)
  /-- `8xy3`: exclusive or, flag cleared. -/
  | xorReg (x y : Reg)
  /-- `8xy4`: add with carry out. -/
  | addReg (x y : Reg)
  /-- `8xy5`: `V[x]` minus `V[y]`. -/
  | subReg (x y : Reg)
  /-- `8xy6`: `V[y]` shifted right into `V[x]`. -/
  | shr (x y : Reg)
  /-- `8xy7`: `V[y]` minus `V[x]`. -/
  | subnReg (x y : Reg)
  /-- `8xyE`: `V[y]` shifted left into `V[x]`. -/
  | shl (x y : Reg)
  /-- `9xy0`: skip if registers differ. -/
  | sneReg (x y : Reg)
  /-- `Annn`: load index register. -/
  | ldI (nnn : BitVec 12)
  /-- `Bnnn`: jump to `nnn` plus `V[0]`. -/
  | jpV0 (nnn : BitVec 12)
  /-- `Cxnn`: masked random byte. -/
  | rnd (x : Reg) (nn : Byte)
  /-- `Dxyn`: draw an 8×`n` sprite. -/
  | drw (x y : Reg) (n : BitVec 4)
  /-- `Ex9E`: skip if the key is pressed. -/
  | skp (x : Reg)
  /-- `ExA1`: skip if the key is not pressed. -/
  | sknp (x : Reg)
  /-- `Fx07`: read the delay timer. -/
  | ldFromDelay (x : Reg)
  /-- `Fx0A`: wait for a key release. -/
  | ldKey (x : Reg)
  /-- `Fx15`: set the delay timer. -/
  | ldDelay (x : Reg)
  /-- `Fx18`: set the sound timer. -/
  | ldSound (x : Reg)
  /-- `Fx1E`: add register to index. -/
  | addI (x : Reg)
  /-- `Fx29`: point `I` at a font glyph. -/
  | ldFont (x : Reg)
  /-- `Fx33`: store three decimal digits. -/
  | ldBcd (x : Reg)
  /-- `Fx55`: store `V[0]` to `V[x]`. -/
  | storeRegs (x : Reg)
  /-- `Fx65`: load `V[0]` to `V[x]`. -/
  | loadRegs (x : Reg)
  deriving DecidableEq, Repr

end Sys2Proof
end

