-- ==== Sys2Proof/Decode.lean ====
section
/-!
DEFINITION. Fields, decoder, opcode map and encoder (30_encoding.md R90 to R103).
-/

namespace Sys2Proof

/-! ### Bytes and words -/

/-- The byte at the lower address of a word: bits 15:8 (20_memory.md R61). -/
def highByte (w : Word) : Byte := w.extractLsb' 8 8

/-- The byte at the higher address of a word: bits 7:0 (R61). -/
def lowByte (w : Word) : Byte := w.extractLsb' 0 8

/-- Two consecutive bytes as a word, big-endian (R61). -/
def wordOfBytes (hi lo : Byte) : Word := hi ++ lo

/-! ### Fields of a word (R91) -/

/-- Bits 15:12, the major opcode. -/
def opField (w : Word) : BitVec 4 := w.extractLsb' 12 4

/-- Bits 11:8. -/
def xField (w : Word) : Reg := (w.extractLsb' 8 4).toFin

/-- Bits 7:4. -/
def yField (w : Word) : Reg := (w.extractLsb' 4 4).toFin

/-- Bits 3:0. -/
def nField (w : Word) : BitVec 4 := w.extractLsb' 0 4

/-- Bits 7:0. -/
def nnField (w : Word) : Byte := w.extractLsb' 0 8

/-- Bits 11:0. -/
def nnnField (w : Word) : BitVec 12 := w.extractLsb' 0 12

/-! ### Decoding -/

/-- The six spaces of undefined encodings (R102): the name by which `decode` rejects a word. -/
inductive Undefined where
  /-- `0nnn` other than `00E0`, `00EE`. -/
  | zeroNnn
  /-- `5xyN` with `N` not 0. -/
  | fiveXyN
  /-- `8xyN` with `N` one of 8, 9, A, B, C, D, F. -/
  | eightXyN
  /-- `9xyN` with `N` not 0. -/
  | nineXyN
  /-- `ExNN` with `NN` neither 9E nor A1. -/
  | eXNN
  /-- `FxNN` with `NN` none of 07, 0A, 15, 18, 1E, 29, 33, 55, 65. -/
  | fXNN
  deriving DecidableEq, Repr

/-- The rows `8xy0` to `8xyE`, keyed on the low nibble. -/
def decodeEight (x y : Reg) (n : BitVec 4) : Except Undefined Instr :=
  if n = 0x0#4 then .ok (.ldReg x y)
  else if n = 0x1#4 then .ok (.orReg x y)
  else if n = 0x2#4 then .ok (.andReg x y)
  else if n = 0x3#4 then .ok (.xorReg x y)
  else if n = 0x4#4 then .ok (.addReg x y)
  else if n = 0x5#4 then .ok (.subReg x y)
  else if n = 0x6#4 then .ok (.shr x y)
  else if n = 0x7#4 then .ok (.subnReg x y)
  else if n = 0xE#4 then .ok (.shl x y)
  else .error .eightXyN

/-- The rows `Fx07` to `Fx65`, keyed on the low byte. -/
def decodeF (x : Reg) (nn : Byte) : Except Undefined Instr :=
  if nn = 0x07#8 then .ok (.ldFromDelay x)
  else if nn = 0x0A#8 then .ok (.ldKey x)
  else if nn = 0x15#8 then .ok (.ldDelay x)
  else if nn = 0x18#8 then .ok (.ldSound x)
  else if nn = 0x1E#8 then .ok (.addI x)
  else if nn = 0x29#8 then .ok (.ldFont x)
  else if nn = 0x33#8 then .ok (.ldBcd x)
  else if nn = 0x55#8 then .ok (.storeRegs x)
  else if nn = 0x65#8 then .ok (.loadRegs x)
  else .error .fXNN

/-- The instruction a word stands for, keyed on the high nibble (R98, R100), every fixed digit of a pattern tested
(R103); a word of no row is rejected by the name of its space (R101, R102). -/
def decode (w : Word) : Except Undefined Instr :=
  let op := opField w
  if op = 0x0#4 then
    if w = 0x00E0#16 then .ok .cls else if w = 0x00EE#16 then .ok .ret else .error .zeroNnn
  else if op = 0x1#4 then .ok (.jp (nnnField w))
  else if op = 0x2#4 then .ok (.call (nnnField w))
  else if op = 0x3#4 then .ok (.seImm (xField w) (nnField w))
  else if op = 0x4#4 then .ok (.sneImm (xField w) (nnField w))
  else if op = 0x5#4 then
    if nField w = 0x0#4 then .ok (.seReg (xField w) (yField w)) else .error .fiveXyN
  else if op = 0x6#4 then .ok (.ldImm (xField w) (nnField w))
  else if op = 0x7#4 then .ok (.addImm (xField w) (nnField w))
  else if op = 0x8#4 then decodeEight (xField w) (yField w) (nField w)
  else if op = 0x9#4 then
    if nField w = 0x0#4 then .ok (.sneReg (xField w) (yField w)) else .error .nineXyN
  else if op = 0xA#4 then .ok (.ldI (nnnField w))
  else if op = 0xB#4 then .ok (.jpV0 (nnnField w))
  else if op = 0xC#4 then .ok (.rnd (xField w) (nnField w))
  else if op = 0xD#4 then .ok (.drw (xField w) (yField w) (nField w))
  else if op = 0xE#4 then
    if nnField w = 0x9E#8 then .ok (.skp (xField w))
    else if nnField w = 0xA1#8 then .ok (.sknp (xField w))
    else .error .eXNN
  else decodeF (xField w) (nnField w)

/-- The first instruction of a byte sequence, and the bytes after it (R90: two bytes, high byte first). -/
def decodeBytes : List Byte → Option (Except Undefined Instr × List Byte)
  | hi :: lo :: rest => some (decode (wordOfBytes hi lo), rest)
  | _ => none

/-- The decoder on an instruction given as spec/opcode_table.json numbers its bits: bit 0 is the least significant bit of
the word. The word is laid out in two bytes, high byte first, and those are decoded. -/
def decodeTableWord (nbits w : Nat) : Option Instr :=
  let word : Word := BitVec.ofNat 16 (w % 2 ^ nbits)
  match decodeBytes [highByte word, lowByte word] with
  | some (.ok i, _) => some i
  | _ => none

/-! ### Encoding (the layouts of R92) -/

/-- Layout `NNN`. -/
def layoutNNN (op : BitVec 4) (nnn : BitVec 12) : Word := op ++ nnn

/-- Layout `XNN`. -/
def layoutXNN (op : BitVec 4) (x : Reg) (nn : Byte) : Word := op ++ (BitVec.ofFin x : BitVec 4) ++ nn

/-- Layouts `XYN` and `XY`: the last nibble is an immediate or a minor opcode. -/
def layoutXYN (op : BitVec 4) (x y : Reg) (n : BitVec 4) : Word :=
  op ++ (BitVec.ofFin x : BitVec 4) ++ (BitVec.ofFin y : BitVec 4) ++ n

/-- The word of an instruction (R92, R100). -/
def encode : Instr → Word
  | .cls => 0x00E0#16
  | .ret => 0x00EE#16
  | .jp nnn => layoutNNN 0x1 nnn
  | .call nnn => layoutNNN 0x2 nnn
  | .seImm x nn => layoutXNN 0x3 x nn
  | .sneImm x nn => layoutXNN 0x4 x nn
  | .seReg x y => layoutXYN 0x5 x y 0x0
  | .ldImm x nn => layoutXNN 0x6 x nn
  | .addImm x nn => layoutXNN 0x7 x nn
  | .ldReg x y => layoutXYN 0x8 x y 0x0
  | .orReg x y => layoutXYN 0x8 x y 0x1
  | .andReg x y => layoutXYN 0x8 x y 0x2
  | .xorReg x y => layoutXYN 0x8 x y 0x3
  | .addReg x y => layoutXYN 0x8 x y 0x4
  | .subReg x y => layoutXYN 0x8 x y 0x5
  | .shr x y => layoutXYN 0x8 x y 0x6
  | .subnReg x y => layoutXYN 0x8 x y 0x7
  | .shl x y => layoutXYN 0x8 x y 0xE
  | .sneReg x y => layoutXYN 0x9 x y 0x0
  | .ldI nnn => layoutNNN 0xA nnn
  | .jpV0 nnn => layoutNNN 0xB nnn
  | .rnd x nn => layoutXNN 0xC x nn
  | .drw x y n => layoutXYN 0xD x y n
  | .skp x => layoutXNN 0xE x 0x9E
  | .sknp x => layoutXNN 0xE x 0xA1
  | .ldFromDelay x => layoutXNN 0xF x 0x07
  | .ldKey x => layoutXNN 0xF x 0x0A
  | .ldDelay x => layoutXNN 0xF x 0x15
  | .ldSound x => layoutXNN 0xF x 0x18
  | .addI x => layoutXNN 0xF x 0x1E
  | .ldFont x => layoutXNN 0xF x 0x29
  | .ldBcd x => layoutXNN 0xF x 0x33
  | .storeRegs x => layoutXNN 0xF x 0x55
  | .loadRegs x => layoutXNN 0xF x 0x65

/-! ### The opcode map as a table (R98, R100): the masks and matches, in the table's order -/

/-- One row of the opcode map. -/
structure OpcodeRow where
  mask : Word
  value : Word
  deriving DecidableEq, Repr

/-- A word satisfies a row: `opcode and mask == match` (R98). -/
def OpcodeRow.selects (r : OpcodeRow) (w : Word) : Bool := w &&& r.mask == r.value

/-- The 34 rows of R100. -/
def opcodeMap : Vector OpcodeRow 34 := #v[
  ⟨0xFFFF, 0x00E0⟩, ⟨0xFFFF, 0x00EE⟩, ⟨0xF000, 0x1000⟩, ⟨0xF000, 0x2000⟩, ⟨0xF000, 0x3000⟩, ⟨0xF000, 0x4000⟩,
  ⟨0xF00F, 0x5000⟩, ⟨0xF000, 0x6000⟩, ⟨0xF000, 0x7000⟩, ⟨0xF00F, 0x8000⟩, ⟨0xF00F, 0x8001⟩, ⟨0xF00F, 0x8002⟩,
  ⟨0xF00F, 0x8003⟩, ⟨0xF00F, 0x8004⟩, ⟨0xF00F, 0x8005⟩, ⟨0xF00F, 0x8006⟩, ⟨0xF00F, 0x8007⟩, ⟨0xF00F, 0x800E⟩,
  ⟨0xF00F, 0x9000⟩, ⟨0xF000, 0xA000⟩, ⟨0xF000, 0xB000⟩, ⟨0xF000, 0xC000⟩, ⟨0xF000, 0xD000⟩, ⟨0xF0FF, 0xE09E⟩,
  ⟨0xF0FF, 0xE0A1⟩, ⟨0xF0FF, 0xF007⟩, ⟨0xF0FF, 0xF00A⟩, ⟨0xF0FF, 0xF015⟩, ⟨0xF0FF, 0xF018⟩, ⟨0xF0FF, 0xF01E⟩,
  ⟨0xF0FF, 0xF029⟩, ⟨0xF0FF, 0xF033⟩, ⟨0xF0FF, 0xF055⟩, ⟨0xF0FF, 0xF065⟩]

/-- The row of the opcode map an instruction belongs to. -/
def Instr.row : Instr → Fin 34
  | .cls => 0
  | .ret => 1
  | .jp _ => 2
  | .call _ => 3
  | .seImm _ _ => 4
  | .sneImm _ _ => 5
  | .seReg _ _ => 6
  | .ldImm _ _ => 7
  | .addImm _ _ => 8
  | .ldReg _ _ => 9
  | .orReg _ _ => 10
  | .andReg _ _ => 11
  | .xorReg _ _ => 12
  | .addReg _ _ => 13
  | .subReg _ _ => 14
  | .shr _ _ => 15
  | .subnReg _ _ => 16
  | .shl _ _ => 17
  | .sneReg _ _ => 18
  | .ldI _ => 19
  | .jpV0 _ => 20
  | .rnd _ _ => 21
  | .drw _ _ _ => 22
  | .skp _ => 23
  | .sknp _ => 24
  | .ldFromDelay _ => 25
  | .ldKey _ => 26
  | .ldDelay _ => 27
  | .ldSound _ => 28
  | .addI _ => 29
  | .ldFont _ => 30
  | .ldBcd _ => 31
  | .storeRegs _ => 32
  | .loadRegs _ => 33

end Sys2Proof
end

