-- ==== Sys2Proof/Config.lean ====
section
/-!
DEFINITION. What is fixed for a machine (00_scope.md R5) and the free values of a step (R6).
-/

namespace Sys2Proof

/-- `MEM_SIZE` (R5): valid addresses are 0 to 4095. -/
abbrev Config.memSize : Nat := 4096

/-- `FONT_SIZE` (R5). -/
abbrev Config.fontSize : Nat := 80

/-- `PROG_BASE` (R5): the load address and the reset `pc`. -/
abbrev Config.progBase : Nat := 0x200

/-- `PROG_MAX` (R5): the largest program image. -/
abbrev Config.progMax : Nat := 3584

/-- `GFX_W` (R5). -/
abbrev Config.gfxWidth : Nat := 64

/-- `GFX_H` (R5). -/
abbrev Config.gfxHeight : Nat := 32

/-- The two entries of R5's table marked "parameter". A machine has one value of each; `State` carries them, so that a
statement about every state holds for every font and every burst size (log 3, log 12). -/
structure Params where
  /-- `FONT`: the 80 glyph bytes at addresses 0 to 79 (R29, R30). -/
  font : Vector Byte Config.fontSize
  /-- `BURST`: instruction steps per cycle, at least 1 (R232). -/
  burst : Nat
  deriving DecidableEq, Repr

/-- The draw `rnd` (R6, R152): the byte of the `k`-th use of a draw, under no law. A free value (log 4). -/
opaque Config.rnd : Nat → Byte

/-- The draw `stale` (R6, R191): the unspecified first content of the row latch of a `Dxyn` that is the `k`-th use of a
draw, under no law. A free value (log 5). -/
opaque Config.stale : Nat → Byte

end Sys2Proof
end

