-- ==== Sys2Proof/Machine/Defaults.lean ====
section
/-!
DEFINITION. The default values of the two parameters (00_scope.md R5).
-/

namespace Sys2Proof.Machine

/-- The default `FONT`: the conventional CHIP-8 hexadecimal font of 10_state.md R30, five bytes a glyph, glyphs 0 to F.
PRESUMED (log 3): the spec's source gives no byte of it. -/
def defaultFont : Vector Byte Config.fontSize := #v[
  0xF0, 0x90, 0x90, 0x90, 0xF0, 0x20, 0x60, 0x20, 0x20, 0x70, 0xF0, 0x10, 0xF0, 0x80, 0xF0, 0xF0, 0x10, 0xF0, 0x10, 0xF0,
  0x90, 0x90, 0xF0, 0x10, 0x10, 0xF0, 0x80, 0xF0, 0x10, 0xF0, 0xF0, 0x80, 0xF0, 0x90, 0xF0, 0xF0, 0x10, 0x20, 0x40, 0x40,
  0xF0, 0x90, 0xF0, 0x90, 0xF0, 0xF0, 0x90, 0xF0, 0x10, 0xF0, 0xF0, 0x90, 0xF0, 0x90, 0x90, 0xE0, 0x90, 0xE0, 0x90, 0xE0,
  0xF0, 0x80, 0x80, 0x80, 0xF0, 0xE0, 0x90, 0x90, 0x90, 0xE0, 0xF0, 0x80, 0xF0, 0x80, 0xF0, 0xF0, 0x80, 0xF0, 0x80, 0x80]

/-- The default `BURST` (45_cycle_driver.md R232). -/
def defaultBurst : Nat := 8

/-- The parameters of `State.reset`. -/
def defaultParams : Params := { font := defaultFont, burst := defaultBurst }

end Sys2Proof.Machine
end

