-- ==== Sys2Proof/Machine/State.lean ====
section
/-!
DEFINITION. The state of the core (10_state.md R20 to R44) as plain data, its reset value (R41), and the reasons a step
can stop.
-/

namespace Sys2Proof.Machine

/-- The two faults, the whole taxonomy (60_exceptions.md R251). They are raised by `State.raise`, which latches them in
`State.halt`; the machine stops with them when it is asked to act in that state (R252, log 1). -/
inductive Fault where
  /-- `2nnn` with `sp = 15` (R122). Raised by `execCall`. Safe: a program that nests sixteen calls has no further run. -/
  | stackOverflow
  /-- `00EE` with `sp = 0` (R120). Raised by `execRet`. Safe: a program that returns on an empty stack has no further run. -/
  | stackUnderflow
  deriving DecidableEq, Repr

/-- Why a step has no meaning. -/
inductive Refusal where
  /-- An instruction without a meaning: only in `exec`'s arms, and no arm is so. Safe. -/
  | notModelled (mnemonic : String)
  /-- `Load` of more than 3584 bytes (45_cycle_driver.md R239, D19): raised by `loadImage`. Safe: the loader, not the core,
  decides between truncating and rejecting. -/
  | imageTooLong
  /-- `Load` after the first `Cycle` (R238, R244): raised by `loadImage`. Safe: the host has no such operation. -/
  | loadDuringRun
  deriving DecidableEq, Repr

/-- The fault latch `halt` (R39). -/
inductive Halt where
  | running
  | faulted (f : Fault)
  deriving DecidableEq, Repr

/-- Which action of engine and cycle driver comes next (R230). The model's own bookkeeping (R232, log 2). -/
inductive Phase where
  /-- The core stands still after Reset, no cycle requested yet: the only point at which `Load` is allowed (R238). -/
  | boot
  /-- The core stands still between two cycles (60_exceptions.md R263). -/
  | idle
  /-- Phase A of a cycle that the host has requested. -/
  | flagReset
  /-- Phase B, with `steps` instruction steps of the burst already done. -/
  | burst (steps : Nat)
  /-- Phase C. -/
  | timers
  /-- Phase D. -/
  | snapshot
  deriving DecidableEq, Repr

/-- Does the core stand still, waiting for a `Cycle` request (R263)? -/
def Phase.standsStill : Phase → Bool
  | .boot => true
  | .idle => true
  | _ => false

/-- The host's operations that act on the core (R238). `Observe` changes nothing: it is the function
`hostObserve`. A key number is 0 to 15 by type (R240). -/
inductive HostOp where
  | reset
  | cycle
  | load (bytes : List Byte)
  | keyDown (k : Key)
  | keyUp (k : Key)
  deriving DecidableEq, Repr

/-- A host operation performed after `wait` more actions of the core (R241, log 7), an idle step counted as one. -/
structure HostEvent where
  wait : Nat
  op : HostOp
  deriving DecidableEq, Repr

/-- `memory`: the listed bytes. `Memory.read` says what an unlisted address reads as, `Memory.wf` the canonical form. -/
abbrev Memory := List Host.Cell

/-- `graphics` (R31, R193): one word of 64 one-bit cells per row, rows from the top; the pixel (`px`, `py`) is bit `px` of
row `py` (log 10). -/
abbrev Screen := Vector (BitVec Config.gfxWidth) Config.gfxHeight

/-- Machine State (R20): the spec's components, then the parameters, then the model's own bookkeeping. -/
structure State where
  /-- `V[0..15]` (R21). -/
  v : Vector Byte 16
  /-- `I` (R23): all sixteen bits are state. -/
  i : Word
  /-- `pc` (R24). -/
  pc : Word
  /-- `sp` (R25): index of the topmost occupied slot, 0 when the stack is empty. -/
  sp : BitVec 4
  /-- `stack` (R26). -/
  stack : Vector Word 16
  /-- `memory` (R27). -/
  mem : Memory
  /-- `graphics` (R31): 2048 cells in 32 rows. -/
  graphics : Screen
  /-- `keypad` (R32). -/
  keypad : Vector Bool 16
  /-- `previous_keypad` (R33). -/
  prevKeypad : Vector Bool 16
  /-- `delay_timer` (R34). -/
  delayTimer : Byte
  /-- `sound_timer` (R35). -/
  soundTimer : Byte
  /-- `draw_flag` (R36). -/
  drawFlag : Bool
  /-- `sound_flag` (R38). -/
  soundFlag : Bool
  /-- `opcode` (R37): the last word fetched. -/
  opcode : Word
  /-- `halt` (R39). -/
  halt : Halt
  /-- `FONT` and `BURST` (R5): no action changes them. -/
  params : Params
  /-- The model's own: the next action (R230). -/
  phase : Phase
  /-- The model's own: how many draws have been used (R6). -/
  draws : Nat
  /-- The model's own: the host operations still to come (R241). -/
  hostPlan : List HostEvent
  /-- The model's own: does the host, besides its plan, request a cycle whenever the core stands still (log 15)? -/
  hostCycles : Bool
  deriving DecidableEq, Repr

/-- The state after Reset (R41, 70_reset_and_hazards.md R280), with the default parameters (R5). -/
def State.reset : State where
  v := Vector.replicate 16 0
  i := 0
  pc := 0x200
  sp := 0
  stack := Vector.replicate 16 0
  mem := []
  graphics := Vector.replicate 32 0
  keypad := Vector.replicate 16 false
  prevKeypad := Vector.replicate 16 false
  delayTimer := 0
  soundTimer := 0
  drawFlag := false
  soundFlag := false
  opcode := 0x0000
  halt := .running
  params := defaultParams
  phase := .boot
  draws := 0
  hostPlan := []
  hostCycles := true

end Sys2Proof.Machine
end

