-- ==== Sys2Proof/Machine/Ops.lean ====
section
/-!
DEFINITION. The named operations over memory, registers, stack and control state, fetch, advance, and taking a fault.
-/

namespace Sys2Proof.Machine

/-! ### Memory (20_memory.md) -/

/-- The reset contents of `memory` (10_state.md R28, R41; 20_memory.md R67), which an address nothing is listed for reads
as: the font at 0 to 79, zero elsewhere. -/
def Memory.unlisted (font : Vector Byte Config.fontSize) (a : Nat) : Byte :=
  if h : a < Config.fontSize then font[a] else 0

/-- The byte at an address. -/
def Memory.read (font : Vector Byte Config.fontSize) (m : Memory) (a : Nat) : Byte :=
  (List.lookup a m).getD (Memory.unlisted font a)

/-- List a byte at its place in the rising order of addresses. -/
def Memory.put (a : Nat) (b : Byte) : Memory → Memory
  | [] => [(a, b)]
  | c :: m =>
    if a < c.1 then (a, b) :: c :: m
    else if a = c.1 then (a, b) :: m
    else c :: Memory.put a b m

/-- Write a byte, keeping the canonical form: a byte equal to the reset contents is not listed. -/
def Memory.write (font : Vector Byte Config.fontSize) (m : Memory) (a : Nat) (b : Byte) : Memory :=
  if b = Memory.unlisted font a then m.filter (fun c => c.1 != a) else Memory.put a b m

/-- The canonical form: addresses strictly rising and below 4096, no byte equal to the reset contents. -/
def Memory.wf (font : Vector Byte Config.fontSize) (m : Memory) : Bool :=
  decide (m.Pairwise fun c d => c.1 < d.1) &&
    m.all fun c => decide (c.1 < Config.memSize) && c.2 != Memory.unlisted font c.1

/-- The guarded byte read (R64): `none` when the address, an unbounded integer (R66), is out of range. What an
instruction then does is its own (R65). -/
def State.load? (s : State) (a : Nat) : Option Byte :=
  if a < Config.memSize then some (Memory.read s.params.font s.mem a) else none

/-- The guarded byte write (R64, R65): dropped when the address is out of range. -/
def State.store (s : State) (a : Nat) (b : Byte) : State :=
  if a < Config.memSize then { s with mem := Memory.write s.params.font s.mem a b } else s

/-- Bytes written at ascending addresses from `a` (R239). -/
def State.storeBytes (s : State) (a : Nat) : List Byte → State
  | [] => s
  | b :: bs => (s.store a b).storeBytes (a + 1) bs

/-! ### Registers (10_state.md R21, R22) -/

/-- `V[r]`. -/
def State.reg (s : State) (r : Reg) : Byte := s.v[r]

/-- `V[r] <- b`. -/
def State.setReg (s : State) (r : Reg) (b : Byte) : State := { s with v := s.v.set r b }

/-- `V[0xF]`, the flag register (R22). -/
abbrev vf : Reg := 15

/-- `keypad[k]` (R32): pressed or not. -/
def State.key (s : State) (k : Key) : Bool := s.keypad[k]

/-- `previous_keypad[k]` (R33). -/
def State.prevKey (s : State) (k : Key) : Bool := s.prevKeypad[k]

/-- `I <- w`. -/
def State.setI (s : State) (w : Word) : State := { s with i := w }

/-- `pc <- w`. -/
def State.setPc (s : State) (w : Word) : State := { s with pc := w }

/-- `skip` (R9, R129): a further 2 added to the advanced `pc`. -/
def State.skip (s : State) : State := { s with pc := s.pc + 2 }

/-- The conditional skip of R129. -/
def State.skipIf (s : State) (c : Bool) : State := if c then s.skip else s

/-! ### Stack (R25, R26) -/

/-- `sp <- sp + 1; stack[sp] <- pc`. -/
def State.push (s : State) : State :=
  { s with sp := s.sp + 1, stack := s.stack.set (s.sp + 1).toNat s.pc (s.sp + 1).isLt }

/-- `pc <- stack[sp]; sp <- sp - 1`; the popped slot keeps its content (R26). -/
def State.pop (s : State) : State :=
  { s with pc := s.stack[s.sp.toNat]'s.sp.isLt, sp := s.sp - 1 }

/-! ### Draws (00_scope.md R6) -/

/-- One more draw has been used: the next one is fresh. -/
def State.useDraw (s : State) : State := { s with draws := s.draws + 1 }

/-! ### Faults (60_exceptions.md R251, R252) -/

/-- `raise`: the entry of a fault, shared by both. Fetch, decode and advance have happened; the execute stage writes
nothing but `halt`. There is no handler and no return; only Reset clears the latch (R256). -/
def State.raise (f : Fault) (s : State) : Host.Outcome State Fault Refusal := .next { s with halt := .faulted f }

/-! ### Fetch and advance (30_encoding.md R94 to R97) -/

/-- The content of `opcode` after the fetch stage (R95): the two bytes at `pc`, high byte first, or the old word when the
guard on `pc` and `pc + 1` fails. -/
def State.fetched (s : State) : Word :=
  match s.load? s.pc.toNat, s.load? (s.pc.toNat + 1) with
  | some hi, some lo => wordOfBytes hi lo
  | _, _ => s.opcode

/-- The burst position after one more instruction step (R232). -/
def Phase.afterStep (burst : Nat) : Phase → Phase
  | .burst k => if k + 1 < burst then .burst (k + 1) else .timers
  | p => p

/-- Fetch and advance (R95, R97): the state the execute stage starts from. The step is counted in the burst here, so a
step that faults has been counted. -/
def State.fetchAdvance (s : State) : State :=
  { s with opcode := s.fetched, pc := s.pc + 2, phase := s.phase.afterStep s.params.burst }

/-- `s` made to fetch the word `w` next: the word at `pc`, high byte first, or in `opcode` where the fetch guard fails
and the step runs the old word (R95); the machine running, at an instruction step, with no host operation coming
before it (a planned `Cycle` does not: it is held until the core stands still). -/
def State.placeWord (s : State) (w : Word) : State :=
  let t := if s.pc.toNat + 1 < Config.memSize then (s.store s.pc.toNat (highByte w)).store (s.pc.toNat + 1) (lowByte w)
    else { s with opcode := w }
  { t with
    halt := .running
    phase := match s.phase with
      | .burst k => .burst k
      | _ => .burst 0
    hostPlan := s.hostPlan.dropWhile fun e => e.wait == 0 && e.op != .cycle }

end Sys2Proof.Machine
end

