-- ==== Sys2Proof/Machine/Operands.lean ====
section
/-!
DEFINITION. The operand forms: immediates (30_encoding.md R93), effective addresses (42_index_memory.md R176), and the
values an instruction forms from a register.
-/

namespace Sys2Proof.Machine

/-- A 12-bit immediate zero-extended to 16 bits (R93). -/
def addrImm (nnn : BitVec 12) : Word := nnn.setWidth 16

/-- A register zero-extended to 16 bits (R127, R171). -/
def regToWord (b : Byte) : Word := b.setWidth 16

/-- The effective address of element `k`: `I + k`, an unbounded integer, not wrapped (R66, R176). -/
abbrev State.element (s : State) (k : Nat) : Nat := s.i.toNat + k

/-- The `V` register of element `k` of `Fx55` and `Fx65`; `k` is at most 15 there. -/
def elementReg (k : Nat) : Reg := Fin.ofNat 16 k

/-- The key a register names: its low nibble (44_keypad_timers.md R210). -/
def keyIndex (b : Byte) : Key := (b.extractLsb' 0 4).toFin

/-- The base address of the glyph a register names: its low nibble times 5 (R172). -/
def glyphBase (b : Byte) : Word := (b &&& 0xF).setWidth 16 * 5

/-- The digits of R173: hundreds, tens, ones. -/
def hundreds (b : Byte) : Byte := BitVec.ofNat 8 (b.toNat / 100)

def tens (b : Byte) : Byte := BitVec.ofNat 8 (b.toNat / 10 % 10)

def ones (b : Byte) : Byte := BitVec.ofNat 8 (b.toNat % 10)

/-- The start column of a sprite (43_display.md R191). -/
def startColumn (b : Byte) : Nat := b.toNat % Config.gfxWidth

/-- The start row of a sprite (R191). -/
def startRow (b : Byte) : Nat := b.toNat % Config.gfxHeight

/-- The masked random byte (41_alu.md R152). -/
def maskedDraw (rnd nn : Byte) : Byte := rnd &&& nn

end Sys2Proof.Machine
end

