-- ==== Sys2Proof/Machine/Alu.lean ====
section
/-!
DEFINITION. Register loads, arithmetic, logic, shifts and the random byte (41_alu.md).
-/

namespace Sys2Proof.Machine

/-- The write order of `8xy1` to `8xy5` and `8xy7` (R153): the result first, the flag second, so the flag stays when
`x = 0xF`. -/
def State.setResultFlag (s : State) (x : Reg) (result flag : Byte) : State :=
  (s.setReg x result).setReg vf flag

/-- The write order of `8xy6` and `8xyE` (R153): copy, flag, shift, each statement seeing the writes before it. -/
def State.copyFlagShift (s : State) (x y : Reg) (flag shift : Byte → Byte) : State :=
  let copied := s.setReg x (s.reg y)
  let flagged := copied.setReg vf (flag (copied.reg x))
  flagged.setReg x (shift (flagged.reg x))

/-- `6xnn` (R140). -/
def execLdImm (x : Reg) (nn : Byte) (s : State) : Host.Outcome State Fault Refusal :=
  .next (s.setReg x nn)

/-- `7xnn` (R141): no flag. -/
def execAddImm (x : Reg) (nn : Byte) (s : State) : Host.Outcome State Fault Refusal :=
  .next (s.setReg x (s.reg x + nn))

/-- `8xy0` (R142). -/
def execLdReg (x y : Reg) (s : State) : Host.Outcome State Fault Refusal :=
  .next (s.setReg x (s.reg y))

/-- `8xy1` (R143). -/
def execOrReg (x y : Reg) (s : State) : Host.Outcome State Fault Refusal :=
  .next (s.setResultFlag x (s.reg x ||| s.reg y) 0)

/-- `8xy2` (R144). -/
def execAndReg (x y : Reg) (s : State) : Host.Outcome State Fault Refusal :=
  .next (s.setResultFlag x (s.reg x &&& s.reg y) 0)

/-- `8xy3` (R145). -/
def execXorReg (x y : Reg) (s : State) : Host.Outcome State Fault Refusal :=
  .next (s.setResultFlag x (s.reg x ^^^ s.reg y) 0)

/-- `8xy4` (R146). -/
def execAddReg (x y : Reg) (s : State) : Host.Outcome State Fault Refusal :=
  .next (s.setResultFlag x (s.reg x + s.reg y) (carryFlag (s.reg x) (s.reg y)))

/-- `8xy5` (R147). -/
def execSubReg (x y : Reg) (s : State) : Host.Outcome State Fault Refusal :=
  .next (s.setResultFlag x (s.reg x - s.reg y) (notBorrowFlag (s.reg x) (s.reg y)))

/-- `8xy7` (R149). -/
def execSubnReg (x y : Reg) (s : State) : Host.Outcome State Fault Refusal :=
  .next (s.setResultFlag x (s.reg y - s.reg x) (notBorrowFlag (s.reg y) (s.reg x)))

/-- `8xy6` (R148): the source is `V[y]`. -/
def execShr (x y : Reg) (s : State) : Host.Outcome State Fault Refusal :=
  .next (s.copyFlagShift x y lowBitFlag fun b => b >>> 1)

/-- `8xyE` (R150): the source is `V[y]`. -/
def execShl (x y : Reg) (s : State) : Host.Outcome State Fault Refusal :=
  .next (s.copyFlagShift x y highBitFlag fun b => b <<< 1)

/-- `Cxnn` (R152): one fresh draw. -/
def execRnd (x : Reg) (nn : Byte) (s : State) : Host.Outcome State Fault Refusal :=
  .next (s.useDraw.setReg x (maskedDraw (Config.rnd s.draws) nn))

end Sys2Proof.Machine
end

