-- ==== Sys2Proof/Machine/ControlFlow.lean ====
section
/-!
DEFINITION. Control transfer, skips and undefined words (40_control_flow.md). Every meaning is an execute stage: `pc` has
been advanced (30_encoding.md R97).
-/

namespace Sys2Proof.Machine

/-- `00EE` (R120). -/
def execRet (s : State) : Host.Outcome State Fault Refusal :=
  if s.sp = 0 then s.raise .stackUnderflow else .next s.pop

/-- `1nnn` (R121). -/
def execJp (nnn : BitVec 12) (s : State) : Host.Outcome State Fault Refusal :=
  .next (s.setPc (addrImm nnn))

/-- `2nnn` (R122). -/
def execCall (nnn : BitVec 12) (s : State) : Host.Outcome State Fault Refusal :=
  if s.sp = 15 then s.raise .stackOverflow else .next (s.push.setPc (addrImm nnn))

/-- `3xnn` (R123, R129). -/
def execSeImm (x : Reg) (nn : Byte) (s : State) : Host.Outcome State Fault Refusal :=
  .next (s.skipIf (s.reg x == nn))

/-- `4xnn` (R124, R129). -/
def execSneImm (x : Reg) (nn : Byte) (s : State) : Host.Outcome State Fault Refusal :=
  .next (s.skipIf (s.reg x != nn))

/-- `5xy0` (R125, R129). -/
def execSeReg (x y : Reg) (s : State) : Host.Outcome State Fault Refusal :=
  .next (s.skipIf (s.reg x == s.reg y))

/-- `9xy0` (R126, R129). -/
def execSneReg (x y : Reg) (s : State) : Host.Outcome State Fault Refusal :=
  .next (s.skipIf (s.reg x != s.reg y))

/-- `Bnnn` (R127): the register is always `V[0]`, the sum is not reduced to 12 bits. -/
def execJpV0 (nnn : BitVec 12) (s : State) : Host.Outcome State Fault Refusal :=
  .next (s.setPc (regToWord (s.reg 0) + addrImm nnn))

/-- A word of no row (30_encoding.md R101, R128): the execute stage writes nothing. -/
def execUndefined (_space : Undefined) (s : State) : Host.Outcome State Fault Refusal :=
  .next s

end Sys2Proof.Machine
end

