-- ==== Sys2Proof/Machine/Display.lean ====
section
/-!
DEFINITION. Display instructions (43_display.md): clear, and the sprite draw of R191 loop by loop.
-/

namespace Sys2Proof.Machine

/-- The pixel (`px`, `py`) of the framebuffer (R193). -/
def Screen.pixel (g : Screen) (px : Nat) (py : Fin Config.gfxHeight) : Bool := g[py].getLsbD px

/-- The pixel (`px`, `py`) changed by the XOR of R191. -/
def Screen.flip (g : Screen) (px : Nat) (py : Fin Config.gfxHeight) : Screen :=
  g.set py (g[py] ^^^ BitVec.twoPow Config.gfxWidth px)

/-- `graphics[k]`, row-major (R31): the pixel in column `k mod 64` of row `k div 64`. -/
def Screen.cell (g : Screen) (k : Nat) : Bool :=
  if h : k / Config.gfxWidth < Config.gfxHeight then g.pixel (k % Config.gfxWidth) ⟨k / Config.gfxWidth, h⟩ else false

/-- What the loops of `Dxyn` carry (R191): the row latch, the framebuffer, whether a lit pixel has been turned off. -/
structure Canvas where
  latch : Byte
  graphics : Screen
  hit : Bool
  deriving DecidableEq, Repr

/-- The pixel of one column: bit 7 of the latch is the leftmost (D6); a pixel past the right edge is dropped; a set bit
flips its cell, and a lit cell flipped is a collision. -/
def Canvas.drawPixel (c : Canvas) (x0 : Nat) (py : Fin Config.gfxHeight) (col : Nat) : Canvas :=
  if x0 + col < Config.gfxWidth ∧ c.latch.getLsbD (7 - col) = true then
    { c with
      graphics := c.graphics.flip (x0 + col) py
      hit := c.hit || c.graphics.pixel (x0 + col) py }
  else c

/-- The first `n` columns of a row, in ascending order. -/
def Canvas.drawColumns (c : Canvas) (x0 : Nat) (py : Fin Config.gfxHeight) : Nat → Canvas
  | 0 => c
  | col + 1 => (c.drawColumns x0 py col).drawPixel x0 py col

/-- One row: the latch is reloaded if the row's byte is in range and kept otherwise (20_memory.md R65); a row past the
bottom edge draws nothing. -/
def Canvas.drawRow (c : Canvas) (s : State) (x0 y0 row : Nat) : Canvas :=
  let loaded := { c with latch := (s.load? (s.element row)).getD c.latch }
  if h : y0 + row < Config.gfxHeight then loaded.drawColumns x0 ⟨y0 + row, h⟩ 8 else loaded

/-- The first `n` rows, in ascending order. -/
def Canvas.drawRows (c : Canvas) (s : State) (x0 y0 : Nat) : Nat → Canvas
  | 0 => c
  | row + 1 => (c.drawRows s x0 y0 row).drawRow s x0 y0 row

/-- `Dxyn` with the draw `stale` as an argument (R191): the coordinates are read before `V[0xF]` is written, and the flag
is 1 exactly when there was a collision (D7). -/
def State.drawSprite (s : State) (stale : Byte) (x y : Reg) (n : BitVec 4) : State :=
  let c := Canvas.drawRows { latch := stale, graphics := s.graphics, hit := false } s (startColumn (s.reg x))
    (startRow (s.reg y)) n.toNat
  { s.setReg vf (flagByte c.hit) with graphics := c.graphics, drawFlag := true }

/-- `00E0` (R190). -/
def execCls (s : State) : Host.Outcome State Fault Refusal :=
  .next { s with graphics := Vector.replicate 32 0, drawFlag := true }

/-- `Dxyn` (R191): one fresh draw for the latch. -/
def execDrw (x y : Reg) (n : BitVec 4) (s : State) : Host.Outcome State Fault Refusal :=
  .next (s.useDraw.drawSprite (Config.stale s.draws) x y n)

end Sys2Proof.Machine
end

