-- ==== Sys2Proof/Machine/IndexMemory.lean ====
section
/-!
DEFINITION. Index register and memory instructions (42_index_memory.md).
-/

namespace Sys2Proof.Machine

/-- The first `n` elements of `Fx55` (R174), in ascending order; an out-of-range write is dropped. -/
def State.storeBlock (s : State) : Nat → State
  | 0 => s
  | k + 1 => (s.storeBlock k).store (s.element k) (s.reg (elementReg k))

/-- The first `n` elements of `Fx65` (R175), in ascending order; an out-of-range source loads 0. -/
def State.loadBlock (s : State) : Nat → State
  | 0 => s
  | k + 1 => (s.loadBlock k).setReg (elementReg k) ((s.load? (s.element k)).getD 0)

/-- The post-increment of `Fx55` and `Fx65`: the element count `x + 1` (R176). -/
def State.bumpI (s : State) (x : Reg) : State := s.setI (s.i + BitVec.ofNat 16 (x.val + 1))

/-- `Annn` (R170). -/
def execLdI (nnn : BitVec 12) (s : State) : Host.Outcome State Fault Refusal :=
  .next (s.setI (addrImm nnn))

/-- `Fx1E` (R171): no mask, no flag. -/
def execAddI (x : Reg) (s : State) : Host.Outcome State Fault Refusal :=
  .next (s.setI (s.i + regToWord (s.reg x)))

/-- `Fx29` (R172). -/
def execLdFont (x : Reg) (s : State) : Host.Outcome State Fault Refusal :=
  .next (s.setI (glyphBase (s.reg x)))

/-- `Fx33` (R173): each write guarded on its own. -/
def execLdBcd (x : Reg) (s : State) : Host.Outcome State Fault Refusal :=
  .next (((s.store (s.element 0) (hundreds (s.reg x))).store (s.element 1) (tens (s.reg x))).store (s.element 2)
    (ones (s.reg x)))

/-- `Fx55` (R174). -/
def execStoreRegs (x : Reg) (s : State) : Host.Outcome State Fault Refusal :=
  .next ((s.storeBlock (x.val + 1)).bumpI x)

/-- `Fx65` (R175). -/
def execLoadRegs (x : Reg) (s : State) : Host.Outcome State Fault Refusal :=
  .next ((s.loadBlock (x.val + 1)).bumpI x)

end Sys2Proof.Machine
end

