-- ==== Sys2Proof/Machine/KeypadTimers.lean ====
section
/-!
DEFINITION. Keypad and timer instructions (44_keypad_timers.md).
-/

namespace Sys2Proof.Machine

/-- The sixteen keys in the order `Fx0A` scans them (R212, D11). -/
def scanOrder : List Key := [0, 1, 2, 3, 4, 5, 6, 7, 8, 9, 10, 11, 12, 13, 14, 15]

/-- A release edge of key `k`: it was down at the last snapshot and is up now (R212). -/
def State.releaseEdge (s : State) (k : Key) : Bool := s.prevKey k && !s.key k

/-- The first key of the scan with a release edge. -/
def State.releasedKey (s : State) : Option Key := scanOrder.find? s.releaseEdge

/-- `Ex9E` (R210). -/
def execSkp (x : Reg) (s : State) : Host.Outcome State Fault Refusal :=
  .next (s.skipIf (s.key (keyIndex (s.reg x))))

/-- `ExA1` (R211). -/
def execSknp (x : Reg) (s : State) : Host.Outcome State Fault Refusal :=
  .next (s.skipIf (!s.key (keyIndex (s.reg x))))

/-- `Fx0A` (R212): the released key's number, or `pc` back to this instruction. -/
def execLdKey (x : Reg) (s : State) : Host.Outcome State Fault Refusal :=
  match s.releasedKey with
  | some k => .next (s.setReg x (BitVec.ofNat 8 k.val))
  | none => .next (s.setPc (s.pc - 2))

/-- `Fx07` (R213). -/
def execLdFromDelay (x : Reg) (s : State) : Host.Outcome State Fault Refusal :=
  .next (s.setReg x s.delayTimer)

/-- `Fx15` (R214). -/
def execLdDelay (x : Reg) (s : State) : Host.Outcome State Fault Refusal :=
  .next { s with delayTimer := s.reg x }

/-- `Fx18` (R215): `sound_flag` is not written. -/
def execLdSound (x : Reg) (s : State) : Host.Outcome State Fault Refusal :=
  .next { s with soundTimer := s.reg x }

end Sys2Proof.Machine
end

