-- ==== Sys2Proof/WellFormed.lean ====
section
/-!
DEFINITION. The checks on data that a type alone does not make.
`Instr` needs none: each operand's type is as wide as its field (30_encoding.md R91), so every term of `Instr` is the
reading of some word, and `Obligations.DecodeOfEncode` says so for all of them. What is left to check is a machine's
parameters and a program image.
-/

namespace Sys2Proof

/-- `BURST` is at least 1 (R5, R232). `FONT` has its 80 bytes by type. -/
def Params.wf (p : Params) : Bool := decide (1 ≤ p.burst)

/-- A program image that `Load` accepts (45_cycle_driver.md R239): at most 3584 bytes. -/
def imageFits (bytes : List Byte) : Bool := decide (bytes.length ≤ Config.progMax)

end Sys2Proof
end

