-- ==== Sys2Proof/Machine/HostOps.lean ====
section
/-!
DEFINITION. The host's operations (45_cycle_driver.md R238 to R245) and whose turn it is (R241).
-/

namespace Sys2Proof.Machine

/-- `Reset` (70_reset_and_hazards.md R280, R243): every component of the spec's state at its reset value, whatever it was.
The parameters are the machine's own (R5), the stream of draws is not restarted (R282), and the host's plan and its
cycle requests are the host's (log 13). Inside a cycle it drops the rest of that cycle (the model's choice, log 16). -/
def hostReset (s : State) : State :=
  { State.reset with params := s.params, draws := s.draws, hostPlan := s.hostPlan, hostCycles := s.hostCycles }

/-- `Cycle` (R230, R238): in a running core that stands still, phase A comes next. In a faulted core it does nothing
(60_exceptions.md R252). It is never performed in the middle of a cycle (`HostEvent.comesNow`). -/
def hostCycle (s : State) : State :=
  if s.halt = .running ∧ s.phase.standsStill = true then { s with phase := .flagReset } else s

/-- `Load` (R239): the bytes at 0x200 upwards and nothing else; only before the first cycle (R238), only up to 3584
bytes. -/
def loadImage (bytes : List Byte) (s : State) : Host.Outcome State Fault Refusal :=
  if s.phase ≠ .boot then .refused .loadDuringRun
  else if imageFits bytes then .next (s.storeBytes Config.progBase bytes)
  else .refused .imageTooLong

/-- `KeyDown` (R240). -/
def hostKeyDown (k : Key) (s : State) : State := { s with keypad := s.keypad.set k true }

/-- `KeyUp` (R240). -/
def hostKeyUp (k : Key) (s : State) : State := { s with keypad := s.keypad.set k false }

/-- One host operation. -/
def hostOp (op : HostOp) (s : State) : Host.Outcome State Fault Refusal :=
  match op with
  | .reset => .next (hostReset s)
  | .cycle => .next (hostCycle s)
  | .load bytes => loadImage bytes s
  | .keyDown k => .next (hostKeyDown k s)
  | .keyUp k => .next (hostKeyUp k s)

/-- Does the host's next planned operation come now? When its wait is over, but a `Cycle` only when no cycle is in
progress, since no two operations overlap (R238). A faulted core takes no action of its own (60_exceptions.md R252), so
there the next operation comes at once (log 7). Every operation but `Cycle` comes inside a cycle too, `Reset` among them:
that is the model's choice (log 16). -/
def HostEvent.comesNow (e : HostEvent) (s : State) : Bool :=
  s.halt != .running || e.wait == 0 && (e.op != .cycle || s.phase.standsStill)

/-- Does the host request a cycle beside its plan (log 15)? -/
def State.cycleRequested (s : State) : Bool := s.hostCycles && s.halt == .running && s.phase.standsStill

/-- The planned operation that comes now, and the state without it. -/
def plannedTurn (s : State) : Option (HostOp × State) :=
  match s.hostPlan with
  | [] => none
  | e :: rest => if e.comesNow s then some (e.op, { s with hostPlan := rest }) else none

/-- The host's operation that comes now, if any, and the state without it: the planned one, else its request. -/
def hostTurn (s : State) : Option (HostOp × State) :=
  match plannedTurn s with
  | some turn => some turn
  | none => if s.cycleRequested then some (.cycle, s) else none

/-- One action of the core has passed for the host's next operation. -/
def hostWait (s : State) : State :=
  match s.hostPlan with
  | [] => s
  | e :: rest => { s with hostPlan := { e with wait := e.wait - 1 } :: rest }

/-- What the host reads (R242): the four outputs, and for inspection every other component of the spec's state. Memory
is read as its 4096 bytes, not as the list that holds them (log 9). -/
structure Observation where
  graphics : Screen
  drawFlag : Bool
  soundFlag : Bool
  soundTimer : Byte
  memory : Vector Byte Config.memSize
  v : Vector Byte 16
  i : Word
  pc : Word
  sp : BitVec 4
  stack : Vector Word 16
  keypad : Vector Bool 16
  previousKeypad : Vector Bool 16
  delayTimer : Byte
  opcode : Word
  halt : Halt
  deriving DecidableEq, Repr

/-- The observation of a state. -/
def observe (s : State) : Observation where
  graphics := s.graphics
  drawFlag := s.drawFlag
  soundFlag := s.soundFlag
  soundTimer := s.soundTimer
  memory := Vector.ofFn fun a => Memory.read s.params.font s.mem a.val
  v := s.v
  i := s.i
  pc := s.pc
  sp := s.sp
  stack := s.stack
  keypad := s.keypad
  previousKeypad := s.prevKeypad
  delayTimer := s.delayTimer
  opcode := s.opcode
  halt := s.halt

/-- `Observe` (R238, R242): allowed between cycles, and in a faulted core (60_exceptions.md R252). It changes nothing, so it
answers an observation and no state. -/
def hostObserve (s : State) : Option Observation :=
  if s.halt ≠ .running ∨ s.phase.standsStill = true then some (observe s) else none

end Sys2Proof.Machine
end

