-- ==== Sys2Proof/Machine/Engine.lean ====
section
/-!
DEFINITION. The engine's instruction step (30_encoding.md R94) and the cycle driver's phases (45_cycle_driver.md R230).
-/

namespace Sys2Proof.Machine

/-- The instruction step (R94): fetch, decode, advance, execute. A word of no row is a no-op (R101). -/
def instructionStep (s : State) : Host.Outcome State Fault Refusal :=
  match decode s.fetchAdvance.opcode with
  | .ok i => exec i s.fetchAdvance
  | .error space => execUndefined space s.fetchAdvance

/-- Phase A (R231): both flags cleared; the burst starts. -/
def phaseA (s : State) : State := { s with drawFlag := false, soundFlag := false, phase := .burst 0 }

/-- A timer's decrement (R234): it stops at 0. -/
def tickTimer (t : Byte) : Byte := if t = 0 then 0 else t - 1

/-- Phase C (R233, R234): the sound signal from the timer before its decrement, then both timers. -/
def phaseC (s : State) : State :=
  { s with
    soundFlag := s.soundFlag || s.soundTimer != 0
    delayTimer := tickTimer s.delayTimer
    soundTimer := tickTimer s.soundTimer
    phase := .snapshot }

/-- Phase D (R235): the key snapshot; the cycle is over, and the core stands still (R263). -/
def phaseD (s : State) : State := { s with prevKeypad := s.keypad, phase := .idle }

/-- One action of the core: the phase or instruction step that comes next (R230). Between `Cycle` requests it does
nothing and keeps all its state (R263). A faulted core takes no action (R252): it stops with its fault (log 1). -/
def coreAction (s : State) : Host.Outcome State Fault Refusal :=
  match s.halt with
  | .faulted f => .fault f
  | .running =>
    match s.phase with
    | .boot => .next s
    | .idle => .next s
    | .flagReset => .next (phaseA s)
    | .burst _ => instructionStep s
    | .timers => .next (phaseC s)
    | .snapshot => .next (phaseD s)

/-- At most `n` actions of the core, ending early at a fault. -/
def runActions : Nat → State → State
  | 0, s => s
  | n + 1, s =>
    match coreAction s with
    | .next t => runActions n t
    | _ => s

/-- A whole `Cycle` (R230) from its request, with no host operation in between: phase A, `BURST` steps, phase C, phase D.
In a faulted core it does nothing (R252); a fault in the burst ends it there (R237). -/
def cycle (s : State) : State := runActions (s.params.burst + 3) (hostCycle s)

end Sys2Proof.Machine
end

