-- ==== Sys2Proof/Machine/Step.lean ====
section
/-!
DEFINITION. One step of the whole machine: the host's next operation if it comes now, else one action of the core
(45_cycle_driver.md R230, R241; log 2, log 7, log 15). A core that stands still takes an idle step.
-/

namespace Sys2Proof.Machine

def step (s : State) : Host.Outcome State Fault Refusal :=
  match hostTurn s with
  | some (op, t) => hostOp op t
  | none => coreAction (hostWait s)

/-- The instruction of spec/opcode_table.json with the bits `w`, placed where the next step fetches: that step is the
instruction step of it. A program comes to run from `State.reset` as log 2 says. -/
def State.withFetchWord (s : State) (nbits w : Nat) : State := s.placeWord (BitVec.ofNat 16 (w % 2 ^ nbits))

end Sys2Proof.Machine
end

