-- ==== Sys2Proof/Safety.lean ====
section
/-!
DEFINITION. What the statements are said in: the invariant of the machine, and the geometry of a sprite in closed form
(43_display.md R192).
-/

namespace Sys2Proof.Machine

/-- The invariant. It rules out states no run reaches: it holds at reset and every step keeps it. -/
structure Inv (s : State) : Prop where
  /-- Memory is in its canonical form. -/
  memory : Memory.wf s.params.font s.mem = true
  /-- `BURST` is at least 1 (R232). -/
  params : s.params.wf = true
  /-- The position in the burst is inside the burst (R232). -/
  position : ∀ k, s.phase = .burst k → k < s.params.burst
  /-- `stack[0]` stays at its reset value (R26). -/
  bottomSlot : s.stack[0] = 0
  /-- What a latched `StackUnderflow` says of the state (R252). -/
  underflow : s.halt = .faulted .stackUnderflow → s.sp = 0 ∧ s.opcode = 0x00EE
  /-- What a latched `StackOverflow` says of the state (R252). -/
  overflow : s.halt = .faulted .stackOverflow → s.sp = 15 ∧ opField s.opcode = 2
  /-- A fault happens inside a burst, so never before the first cycle (R230, R251). -/
  faultInRun : s.halt ≠ .running → s.phase ≠ .boot

/-- Only the registers `V` may differ. -/
def OnlyV (s t : State) : Prop := t = { s with v := t.v }

/-- Only `pc` may differ. -/
def OnlyPc (s t : State) : Prop := t = { s with pc := t.pc }

/-- Only `I` may differ. -/
def OnlyI (s t : State) : Prop := t = { s with i := t.i }

/-- Every `V` register but those named holds the same value. -/
def SameRegsBut (rs : List Reg) (s t : State) : Prop := ∀ r, r ∉ rs → t.reg r = s.reg r

/-- `B(row)` of R192: the latch content used for a row of a sprite. -/
def spriteByte (s : State) (stale : Byte) (row : Nat) : Byte :=
  if s.i.toNat + row < 4096 then Memory.read s.params.font s.mem (s.i.toNat + row)
  else if s.i.toNat ≤ 4095 then Memory.read s.params.font s.mem 4095
  else stale

/-- Cell `k` is in the set of cells toggled by `Dxyn` (R192). -/
def Toggles (s : State) (stale : Byte) (x y : Reg) (n : BitVec 4) (k : Nat) : Prop :=
  ∃ row col : Nat, row < n.toNat ∧ (s.reg y).toNat % 32 + row ≤ 31 ∧ col ≤ 7 ∧ (s.reg x).toNat % 64 + col ≤ 63 ∧
    (spriteByte s stale row).getLsbD (7 - col) = true ∧
    k = ((s.reg y).toNat % 32 + row) * 64 + ((s.reg x).toNat % 64 + col)

/-- `k` instruction steps one after the other, ending early at a fault (R232, R237). -/
def engineSteps : Nat → State → State
  | 0, s => s
  | k + 1, s =>
    match s.halt, instructionStep s with
    | .running, .next t => engineSteps k t
    | _, _ => s

/-- `k` steps of the whole machine, ending early where it stops. -/
def machineSteps : Nat → State → State
  | 0, s => s
  | k + 1, s =>
    match step s with
    | .next t => machineSteps k t
    | _ => s

end Sys2Proof.Machine
end

