-- ==== Sys2Proof/Certificates/Slice0/Obligations.lean ====
section
/-!
DEFINITION. The statements for the provers. Each says in its docstring which rule of spec/ it formalises.
An execute stage is stated of `exec i s`, with `s` the state after fetch and advance (30_encoding.md R94);
`StepRunsDecodedInstruction` carries it to a step.
-/

open Sys2Proof Sys2Proof.Machine

/-! ### Encoding -/

/-- R100: words written out from the patterns of the opcode map, at least one of each format and file, and words of
each undefined space. That 0x5121 and 0x9121 are undefined, every fixed digit being tested, is the spec's decision
D3 (R103, log 6). -/
def Obligations.HandWrittenWordsDecode : Prop :=
  decode 0b0000000011100000#16 = .ok .cls ∧ decode 0b0000000011101110#16 = .ok .ret ∧
  decode 0b0001101010111100#16 = .ok (.jp 0xABC) ∧ decode 0b0011101001000010#16 = .ok (.seImm 10 0x42) ∧
  decode 0b1000000100100100#16 = .ok (.addReg 1 2) ∧ decode 0b1000111100101110#16 = .ok (.shl 15 2) ∧
  decode 0b1101000100100101#16 = .ok (.drw 1 2 5) ∧ decode 0b1110010010011110#16 = .ok (.skp 4) ∧
  decode 0b1111001101100101#16 = .ok (.loadRegs 3) ∧
  decode 0b0000000100100011#16 = .error .zeroNnn ∧ decode 0b0101000100100001#16 = .error .fiveXyN ∧
  decode 0b1000000100101000#16 = .error .eightXyN ∧ decode 0b1001000100100001#16 = .error .nineXyN ∧
  decode 0b1110000110011111#16 = .error .eXNN ∧ decode 0b1111000111111111#16 = .error .fXNN

/-- Every instruction, with every value of every operand, is what its own word decodes to (R91, R92, R100). -/
def Obligations.DecodeOfEncode : Prop := ∀ i : Instr, decode (encode i) = .ok i

/-- A word decodes to an instruction only if it is that instruction's word: no bit is dropped (R91, R103). That no
second word decodes to `00E0`, `00EE`, `5xy0` or `9xy0` is the spec's decision D3 (log 6). -/
def Obligations.EncodeOfDecode : Prop := ∀ (w : Word) (i : Instr), decode w = .ok i → encode i = w

/-- R98, R100: a word decodes to an instruction of row `k` exactly when it satisfies that row's mask and match. That
the masks of `00E0`, `00EE`, `5xy0`, `9xy0` test every fixed digit is the spec's decision D3 (R103, log 6). -/
def Obligations.DecodeFollowsOpcodeMap : Prop :=
  ∀ (w : Word) (k : Fin 34), (∃ i, decode w = .ok i ∧ i.row = k) ↔ opcodeMap[k].selects w = true

/-- R98: the 34 pairs are mutually exclusive. -/
def Obligations.OpcodeMapExclusive : Prop :=
  ∀ (w : Word) (j k : Fin 34), opcodeMap[j].selects w = true → opcodeMap[k].selects w = true → j = k

/-- R101, R102: a word is rejected exactly when no row selects it, and under the name of its space. That every fixed
digit is tested is the spec's decision D3 (R103, log 6). -/
def Obligations.UndefinedSpaces : Prop :=
  ∀ w : Word,
    ((∃ u, decode w = .error u) ↔ ∀ k : Fin 34, opcodeMap[k].selects w = false) ∧
    (decode w = .error .zeroNnn ↔ opField w = 0x0 ∧ w ≠ 0x00E0 ∧ w ≠ 0x00EE) ∧
    (decode w = .error .fiveXyN ↔ opField w = 0x5 ∧ nField w ≠ 0) ∧
    (decode w = .error .eightXyN ↔ opField w = 0x8 ∧ nField w ∈ [0x8, 0x9, 0xA, 0xB, 0xC, 0xD, 0xF]) ∧
    (decode w = .error .nineXyN ↔ opField w = 0x9 ∧ nField w ≠ 0) ∧
    (decode w = .error .eXNN ↔ opField w = 0xE ∧ nnField w ∉ [0x9E, 0xA1]) ∧
    (decode w = .error .fXNN ↔
      opField w = 0xF ∧ nnField w ∉ [0x07, 0x0A, 0x15, 0x18, 0x1E, 0x29, 0x33, 0x55, 0x65])

/-! ### The step -/

/-- R95, R61, R63: fetch reads the two bytes at `pc`, the byte at `pc` as the high byte, when `pc` is at most 4094 and
of whatever parity; otherwise the old word stands. -/
def Obligations.FetchIsGuardedBigEndian : Prop :=
  ∀ s : State,
    (s.pc.toNat + 1 < 4096 →
      some (highByte s.fetched) = s.load? s.pc.toNat ∧ some (lowByte s.fetched) = s.load? (s.pc.toNat + 1)) ∧
    (4096 ≤ s.pc.toNat + 1 → s.fetched = s.opcode)

/-- R94, R97: when the core is running in a burst and no host operation comes now, a step whose fetched word decodes
is the execute stage of that instruction, on the state with the word latched, `pc` advanced by 2, the step counted
in the burst and one action counted for the host's plan. The phase counter, the host's plan and "a step is one
action" are the model's choice (log 2, log 7). -/
def Obligations.StepRunsDecodedInstruction : Prop :=
  ∀ (s : State) (k : Nat) (i : Instr), hostTurn s = none → s.halt = .running → s.phase = .burst k →
    decode s.fetched = .ok i →
    step s = exec i { s with
      opcode := s.fetched
      pc := s.pc + 2
      phase := if k + 1 < s.params.burst then .burst (k + 1) else .timers
      hostPlan := (hostWait s).hostPlan }

/-- R101, R128: when the fetched word is of no row, a step latches it and advances `pc`, and nothing else of the
spec's state changes. Phase and host plan are the model's choice (log 2, log 7); which words are of no row rests on
decision D3 (log 6). -/
def Obligations.StepUndefinedIsNoop : Prop :=
  ∀ (s : State) (k : Nat) (u : Undefined), hostTurn s = none → s.halt = .running → s.phase = .burst k →
    decode s.fetched = .error u →
    ∃ t, step s = .next t ∧
      t = { s with opcode := s.fetched, pc := s.pc + 2, phase := t.phase, hostPlan := t.hostPlan }

/-- The word placed by `withFetchWord` is the one the next step runs, from every state; in memory, R61's byte order
and R75 (a stored byte is seen by the next fetch) make it so, and where the fetch guard fails R95 does. That this
stands for a load is the model's choice (log 2). -/
def Obligations.PlacedWordRunsNext : Prop :=
  ∀ (s : State) (w : Word) (i : Instr), decode w = .ok i →
    let t := s.withFetchWord 16 w.toNat
    t.fetched = w ∧ t.pc = s.pc ∧
      step t = exec i { t with
        opcode := w
        pc := s.pc + 2
        phase := t.phase.afterStep s.params.burst
        hostPlan := (hostWait t).hostPlan }

/-- R10, R99, R251: every instruction completes within its own step, on every state: `exec` always answers a next
state, and only `00EE` and `2nnn` can write `halt`. The two faults are the spec's decision D1; that a fault's entry
is a next state is the model's reading (log 1). -/
def Obligations.ExecAlwaysCompletes : Prop :=
  ∀ (i : Instr) (s : State), ∃ t, exec i s = .next t ∧ (t.halt ≠ s.halt → i = .ret ∨ ∃ nnn, i = .call nnn)

/-! ### Control flow (40_control_flow.md) -/

/-- R120: `00EE`. The fault on an empty stack is the spec's decision D1; that its entry is a next state is the
model's reading (log 1). -/
def Obligations.ReturnPopsTheStack : Prop :=
  decode 0x00EE = .ok .ret ∧
  ∀ s : State,
    (s.sp ≠ 0 → ∃ t, exec .ret s = .next t ∧ t.pc = s.stack[s.sp.toNat]'s.sp.isLt ∧ t.sp.toNat + 1 = s.sp.toNat ∧
      t = { s with pc := t.pc, sp := t.sp }) ∧
    (s.sp = 0 → exec .ret s = .next { s with halt := .faulted .stackUnderflow })

/-- R121: `1nnn`. -/
def Obligations.JumpSetsPc : Prop :=
  (∀ w : Word, opField w = 0x1 → decode w = .ok (.jp (nnnField w))) ∧
  ∀ (nnn : BitVec 12) (s : State), ∃ t, exec (.jp nnn) s = .next t ∧ t.pc.toNat = nnn.toNat ∧ OnlyPc s t

/-- R122: `2nnn`. The fault on a full stack is the spec's decision D1; that its entry is a next state is the model's
reading (log 1). -/
def Obligations.CallPushesAndJumps : Prop :=
  (∀ w : Word, opField w = 0x2 → decode w = .ok (.call (nnnField w))) ∧
  ∀ (nnn : BitVec 12) (s : State),
    (s.sp ≠ 15 → ∃ t, exec (.call nnn) s = .next t ∧ t.sp.toNat = s.sp.toNat + 1 ∧
      t.stack[t.sp.toNat]'t.sp.isLt = s.pc ∧ (∀ k : Fin 16, k.val ≠ t.sp.toNat → t.stack[k] = s.stack[k]) ∧
      t.pc.toNat = nnn.toNat ∧ t = { s with pc := t.pc, sp := t.sp, stack := t.stack }) ∧
    (s.sp = 15 → exec (.call nnn) s = .next { s with halt := .faulted .stackOverflow })

/-- R122 then R120: a call followed by a return goes on at the instruction after the call, and only the slot used
has changed. That a sixteenth call is left out rests on decision D1. -/
def Obligations.CallThenReturn : Prop :=
  ∀ (nnn : BitVec 12) (s : State), s.sp ≠ 15 →
    ∃ t u, exec (.call nnn) s = .next t ∧ exec .ret t = .next u ∧ u = { s with stack := u.stack } ∧
      ∀ k : Fin 16, k.val ≠ s.sp.toNat + 1 → u.stack[k] = s.stack[k]

/-- R123, R124, R129: `3xnn`, `4xnn`. -/
def Obligations.SkipOnImmediate : Prop :=
  (∀ w : Word,
    (opField w = 0x3 → decode w = .ok (.seImm (xField w) (nnField w))) ∧
    (opField w = 0x4 → decode w = .ok (.sneImm (xField w) (nnField w)))) ∧
  ∀ (x : Reg) (nn : Byte) (s : State),
    (∃ t, exec (.seImm x nn) s = .next t ∧ OnlyPc s t ∧
      t.pc.toNat = if s.reg x = nn then (s.pc.toNat + 2) % 65536 else s.pc.toNat) ∧
    (∃ t, exec (.sneImm x nn) s = .next t ∧ OnlyPc s t ∧
      t.pc.toNat = if s.reg x ≠ nn then (s.pc.toNat + 2) % 65536 else s.pc.toNat)

/-- R125, R126, R129: `5xy0`, `9xy0`; a word with another low nibble is undefined. That `5xyN` and `9xyN` with `N`
not 0 are undefined is the spec's decision D3 (R103, log 6). -/
def Obligations.SkipOnRegisters : Prop :=
  (∀ w : Word,
    (opField w = 0x5 → decode w = if nField w = 0 then .ok (.seReg (xField w) (yField w)) else .error .fiveXyN) ∧
    (opField w = 0x9 → decode w = if nField w = 0 then .ok (.sneReg (xField w) (yField w)) else .error .nineXyN)) ∧
  ∀ (x y : Reg) (s : State),
    (∃ t, exec (.seReg x y) s = .next t ∧ OnlyPc s t ∧
      t.pc.toNat = if s.reg x = s.reg y then (s.pc.toNat + 2) % 65536 else s.pc.toNat) ∧
    (∃ t, exec (.sneReg x y) s = .next t ∧ OnlyPc s t ∧
      t.pc.toNat = if s.reg x ≠ s.reg y then (s.pc.toNat + 2) % 65536 else s.pc.toNat)

/-- R127: `Bnnn`; the sum never wraps and is not reduced to 12 bits. -/
def Obligations.IndexedJump : Prop :=
  (∀ w : Word, opField w = 0xB → decode w = .ok (.jpV0 (nnnField w))) ∧
  ∀ (nnn : BitVec 12) (s : State), ∃ t, exec (.jpV0 nnn) s = .next t ∧ OnlyPc s t ∧
    t.pc.toNat = (s.reg 0).toNat + nnn.toNat

/-! ### Registers and arithmetic (41_alu.md) -/

/-- R140: `6xnn`. -/
def Obligations.LoadImmediate : Prop :=
  (∀ w : Word, opField w = 0x6 → decode w = .ok (.ldImm (xField w) (nnField w))) ∧
  ∀ (x : Reg) (nn : Byte) (s : State), ∃ t, exec (.ldImm x nn) s = .next t ∧ OnlyV s t ∧ SameRegsBut [x] s t ∧
    t.reg x = nn

/-- R141: `7xnn`; no flag is written. -/
def Obligations.AddImmediateWithoutFlag : Prop :=
  (∀ w : Word, opField w = 0x7 → decode w = .ok (.addImm (xField w) (nnField w))) ∧
  ∀ (x : Reg) (nn : Byte) (s : State), ∃ t, exec (.addImm x nn) s = .next t ∧ OnlyV s t ∧ SameRegsBut [x] s t ∧
    (t.reg x).toNat = ((s.reg x).toNat + nn.toNat) % 256

/-- R142: `8xy0`. -/
def Obligations.CopyRegister : Prop :=
  (∀ w : Word, opField w = 0x8 → nField w = 0x0 → decode w = .ok (.ldReg (xField w) (yField w))) ∧
  ∀ (x y : Reg) (s : State), ∃ t, exec (.ldReg x y) s = .next t ∧ OnlyV s t ∧ SameRegsBut [x] s t ∧
    t.reg x = s.reg y

/-- R143, R144, R145: `8xy1`, `8xy2`, `8xy3`; bit by bit the result, and `V[0xF]` is 0 afterwards, also for `x =
0xF`. -/
def Obligations.LogicClearsTheFlag : Prop :=
  (∀ w : Word, opField w = 0x8 →
    (nField w = 0x1 → decode w = .ok (.orReg (xField w) (yField w))) ∧
    (nField w = 0x2 → decode w = .ok (.andReg (xField w) (yField w))) ∧
    (nField w = 0x3 → decode w = .ok (.xorReg (xField w) (yField w)))) ∧
  ∀ (x y : Reg) (s : State),
    (∃ t, exec (.orReg x y) s = .next t ∧ OnlyV s t ∧ SameRegsBut [x, vf] s t ∧ t.reg vf = 0 ∧
      (x ≠ vf → ∀ b < 8, (t.reg x).getLsbD b = ((s.reg x).getLsbD b || (s.reg y).getLsbD b))) ∧
    (∃ t, exec (.andReg x y) s = .next t ∧ OnlyV s t ∧ SameRegsBut [x, vf] s t ∧ t.reg vf = 0 ∧
      (x ≠ vf → ∀ b < 8, (t.reg x).getLsbD b = ((s.reg x).getLsbD b && (s.reg y).getLsbD b))) ∧
    (∃ t, exec (.xorReg x y) s = .next t ∧ OnlyV s t ∧ SameRegsBut [x, vf] s t ∧ t.reg vf = 0 ∧
      (x ≠ vf → ∀ b < 8, (t.reg x).getLsbD b = ((s.reg x).getLsbD b ^^ (s.reg y).getLsbD b)))

/-- R146: `8xy4`; with `x = 0xF` the carry stays and the sum is lost. The outcome with `x = 0xF` is marked derived
in R153 and is the spec's decision D16 (log 6). -/
def Obligations.AddWithCarryOut : Prop :=
  (∀ w : Word, opField w = 0x8 → nField w = 0x4 → decode w = .ok (.addReg (xField w) (yField w))) ∧
  ∀ (x y : Reg) (s : State), ∃ t, exec (.addReg x y) s = .next t ∧ OnlyV s t ∧ SameRegsBut [x, vf] s t ∧
    (x ≠ vf → (t.reg x).toNat = ((s.reg x).toNat + (s.reg y).toNat) % 256) ∧
    t.reg vf = if (s.reg x).toNat + (s.reg y).toNat > 255 then 1 else 0

/-- R147, R149: `8xy5`, and `8xy7` with the operands exchanged; the flag is 1 when there is no borrow, and with `x =
0xF` it stays. The outcome with `x = 0xF` is marked derived in R153 and is the spec's decision D16 (log 6). -/
def Obligations.SubtractWithNotBorrow : Prop :=
  (∀ w : Word, opField w = 0x8 →
    (nField w = 0x5 → decode w = .ok (.subReg (xField w) (yField w))) ∧
    (nField w = 0x7 → decode w = .ok (.subnReg (xField w) (yField w)))) ∧
  ∀ (x y : Reg) (s : State),
    (∃ t, exec (.subReg x y) s = .next t ∧ OnlyV s t ∧ SameRegsBut [x, vf] s t ∧
      (x ≠ vf → ((t.reg x).toNat : Int) = ((s.reg x).toNat - (s.reg y).toNat : Int) % 256) ∧
      t.reg vf = if (s.reg x).toNat ≥ (s.reg y).toNat then 1 else 0) ∧
    (∃ t, exec (.subnReg x y) s = .next t ∧ OnlyV s t ∧ SameRegsBut [x, vf] s t ∧
      (x ≠ vf → ((t.reg x).toNat : Int) = ((s.reg y).toNat - (s.reg x).toNat : Int) % 256) ∧
      t.reg vf = if (s.reg y).toNat ≥ (s.reg x).toNat then 1 else 0)

/-- R148: `8xy6`; the source is `V[y]`; with `x = 0xF` the register ends 0. The outcome with `x = 0xF` is marked
derived in R153 and is the spec's decision D16 (log 6). -/
def Obligations.ShiftRightReadsY : Prop :=
  (∀ w : Word, opField w = 0x8 → nField w = 0x6 → decode w = .ok (.shr (xField w) (yField w))) ∧
  ∀ (x y : Reg) (s : State), ∃ t, exec (.shr x y) s = .next t ∧ OnlyV s t ∧ SameRegsBut [x, vf] s t ∧
    (x ≠ vf → (t.reg x).toNat = (s.reg y).toNat / 2 ∧ (t.reg vf).toNat = (s.reg y).toNat % 2) ∧
    (x = vf → t.reg vf = 0)

/-- R150: `8xyE`; the source is `V[y]`; with `x = 0xF` the register ends 0 or 2. The outcome with `x = 0xF` is
marked derived in R153 and is the spec's decision D16 (log 6). -/
def Obligations.ShiftLeftReadsY : Prop :=
  (∀ w : Word, opField w = 0x8 → nField w = 0xE → decode w = .ok (.shl (xField w) (yField w))) ∧
  ∀ (x y : Reg) (s : State), ∃ t, exec (.shl x y) s = .next t ∧ OnlyV s t ∧ SameRegsBut [x, vf] s t ∧
    (x ≠ vf → (t.reg x).toNat = 2 * (s.reg y).toNat % 256 ∧ (t.reg vf).toNat = (s.reg y).toNat / 128) ∧
    (x = vf → (t.reg vf).toNat = 2 * ((s.reg y).toNat / 128))

/-- R152: `Cxnn` stores the draw masked by `nn` and uses up one draw. The draw is a free value: nothing is known of
it. That each execution uses one fresh draw is the spec's decision D10; the counter of draws is the model's (log 4). -/
def Obligations.RandomByteIsMaskedDraw : Prop :=
  (∀ w : Word, opField w = 0xC → decode w = .ok (.rnd (xField w) (nnField w))) ∧
  ∀ (x : Reg) (nn : Byte) (s : State), ∃ t, exec (.rnd x nn) s = .next t ∧
    t = { s with v := t.v, draws := s.draws + 1 } ∧ SameRegsBut [x] s t ∧
    (∀ b < 8, (t.reg x).getLsbD b = ((Config.rnd s.draws).getLsbD b && nn.getLsbD b))

/-! ### Index register and memory (42_index_memory.md) -/

/-- R170: `Annn`. -/
def Obligations.LoadIndex : Prop :=
  (∀ w : Word, opField w = 0xA → decode w = .ok (.ldI (nnnField w))) ∧
  ∀ (nnn : BitVec 12) (s : State), ∃ t, exec (.ldI nnn) s = .next t ∧ OnlyI s t ∧ t.i.toNat = nnn.toNat

/-- R171: `Fx1E`; no mask, no flag, a wrap at 65536. -/
def Obligations.AddToIndex : Prop :=
  (∀ w : Word, opField w = 0xF → nnField w = 0x1E → decode w = .ok (.addI (xField w))) ∧
  ∀ (x : Reg) (s : State), ∃ t, exec (.addI x) s = .next t ∧ OnlyI s t ∧
    t.i.toNat = (s.i.toNat + (s.reg x).toNat) % 65536

/-- R172: `Fx29`; the low nibble times 5. -/
def Obligations.PointAtGlyph : Prop :=
  (∀ w : Word, opField w = 0xF → nnField w = 0x29 → decode w = .ok (.ldFont (xField w))) ∧
  ∀ (x : Reg) (s : State), ∃ t, exec (.ldFont x) s = .next t ∧ OnlyI s t ∧
    t.i.toNat = (s.reg x).toNat % 16 * 5

/-- R173: `Fx33`; each digit lands where its address is in range, and every other byte of memory reads as before.
The digit formulas are marked derived in R173, the unbounded address is decision D9 (log 6). -/
def Obligations.StoreDecimalDigits : Prop :=
  (∀ w : Word, opField w = 0xF → nnField w = 0x33 → decode w = .ok (.ldBcd (xField w))) ∧
  ∀ (x : Reg) (s : State), ∃ t, exec (.ldBcd x) s = .next t ∧ t = { s with mem := t.mem } ∧
    (s.element 0 < 4096 → (t.load? (s.element 0)).map BitVec.toNat = some ((s.reg x).toNat / 100)) ∧
    (s.element 1 < 4096 → (t.load? (s.element 1)).map BitVec.toNat = some ((s.reg x).toNat / 10 % 10)) ∧
    (s.element 2 < 4096 → (t.load? (s.element 2)).map BitVec.toNat = some ((s.reg x).toNat % 10)) ∧
    (∀ a, a ≠ s.element 0 → a ≠ s.element 1 → a ≠ s.element 2 → t.load? a = s.load? a)

/-- R174: `Fx55`; each register lands where its address is in range, every other byte of memory reads as before, and
`I` moves on by `x + 1` whatever was dropped. That the address `I + r` is not wrapped, which decides what is out of
range for `I` from 0xFFF1 up, is the spec's decision D9 (R66, log 6). -/
def Obligations.StoreRegisterBlock : Prop :=
  (∀ w : Word, opField w = 0xF → nnField w = 0x55 → decode w = .ok (.storeRegs (xField w))) ∧
  ∀ (x : Reg) (s : State), ∃ t, exec (.storeRegs x) s = .next t ∧ t = { s with mem := t.mem, i := t.i } ∧
    (∀ r : Reg, r ≤ x → s.element r.val < 4096 → t.load? (s.element r.val) = some (s.reg r)) ∧
    (∀ a, (∀ r : Reg, r ≤ x → a ≠ s.element r.val) → t.load? a = s.load? a) ∧
    t.i.toNat = (s.i.toNat + x.val + 1) % 65536

/-- R175: `Fx65`; an out-of-range source loads 0, registers above `x` keep their values, and `I` moves on by `x +
1`. That the address `I + r` is not wrapped, which decides what is out of range for `I` from 0xFFF1 up, is the
spec's decision D9 (R66, log 6). -/
def Obligations.LoadRegisterBlock : Prop :=
  (∀ w : Word, opField w = 0xF → nnField w = 0x65 → decode w = .ok (.loadRegs (xField w))) ∧
  ∀ (x : Reg) (s : State), ∃ t, exec (.loadRegs x) s = .next t ∧ t = { s with v := t.v, i := t.i } ∧
    (∀ r : Reg, r ≤ x → some (t.reg r) = if s.element r.val < 4096 then s.load? (s.element r.val) else some 0) ∧
    (∀ r : Reg, x < r → t.reg r = s.reg r) ∧
    t.i.toNat = (s.i.toNat + x.val + 1) % 65536

/-- R175, C8: a block stored and then loaded from the same base, set back in between, comes back: in full where it
is in range, as zeros where it is not, whatever the registers held meanwhile; each instruction moves `I` by `x + 1`.
The reading of the source's sentence is that of 90_conflicts.md C8. That the address `I + r` is not wrapped, which
decides what is out of range for `I` from 0xFFF1 up, is the spec's decision D9 (R66, log 6). -/
def Obligations.StoreThenLoadRoundTrip : Prop :=
  ∀ (x : Reg) (s t u : State), exec (.storeRegs x) s = .next t → u.mem = t.mem → u.params = t.params → u.i = s.i →
    ∃ w, exec (.loadRegs x) u = .next w ∧ w.i = t.i ∧
      ∀ r : Reg, r ≤ x → w.reg r = if s.element r.val < 4096 then s.reg r else 0

/-! ### Display (43_display.md) -/

/-- R190: `00E0`. -/
def Obligations.ClearScreen : Prop :=
  decode 0x00E0 = .ok .cls ∧
  ∀ s : State, ∃ t, exec .cls s = .next t ∧ t = { s with graphics := t.graphics, drawFlag := true } ∧
    ∀ k < 2048, t.graphics.cell k = false

/-- R191, R192: `Dxyn` in the closed form of R192, for every state, sprite, position and draw: a cell changes
exactly when the sprite toggles it, `V[0xF]` is 1 exactly when a toggled cell was lit, `draw_flag` is set, one draw
is used, and nothing else changes. The spec's own decisions in it: D6 (bit 7 leftmost), D7 (flag 0 without
collision), D8 (the draw), D9 (`I + row` is not wrapped), all log 6; the counter of draws is the model's (log 5). -/
def Obligations.DrawSpriteClosedForm : Prop :=
  (∀ w : Word, opField w = 0xD → decode w = .ok (.drw (xField w) (yField w) (nField w))) ∧
  ∀ (x y : Reg) (n : BitVec 4) (s : State), ∃ t, exec (.drw x y n) s = .next t ∧
    t = { s with v := t.v, graphics := t.graphics, drawFlag := true, draws := s.draws + 1 } ∧ SameRegsBut [vf] s t ∧
    (∀ k < 2048, t.graphics.cell k = true ↔
      (s.graphics.cell k = true ∧ ¬ Toggles s (Config.stale s.draws) x y n k ∨
        s.graphics.cell k = false ∧ Toggles s (Config.stale s.draws) x y n k)) ∧
    ((∃ k, Toggles s (Config.stale s.draws) x y n k ∧ s.graphics.cell k = true) → t.reg vf = 1) ∧
    ((∀ k, Toggles s (Config.stale s.draws) x y n k → s.graphics.cell k = false) → t.reg vf = 0)

/-- R191: a sprite read from memory and drawn twice at the same place restores the framebuffer; if its pixels were
unlit before and it has one on the screen, the second draw reports the collision. `x` and `y` are not `0xF`, which
the first draw writes, and `I` is in range, so the second draw sees the same rows whatever the draws are. D6, D7 and
D8 are the spec's decisions (log 6). -/
def Obligations.DrawTwiceRestores : Prop :=
  ∀ (x y : Reg) (n : BitVec 4) (s : State), x ≠ vf → y ≠ vf → s.i.toNat < 4096 →
    ∃ t u, exec (.drw x y n) s = .next t ∧ exec (.drw x y n) t = .next u ∧ u.graphics = s.graphics ∧
      ((∃ k, Toggles s 0 x y n k) → (∀ k, Toggles s 0 x y n k → s.graphics.cell k = false) → u.reg vf = 1)

/-! ### Keypad and timers (44_keypad_timers.md) -/

/-- R210, R211, R129: `Ex9E`, `ExA1`; the key is the low nibble of `V[x]`, and its present level decides. -/
def Obligations.SkipOnKey : Prop :=
  (∀ w : Word, opField w = 0xE →
    (nnField w = 0x9E → decode w = .ok (.skp (xField w))) ∧ (nnField w = 0xA1 → decode w = .ok (.sknp (xField w)))) ∧
  ∀ (x : Reg) (s : State),
    (∃ t, exec (.skp x) s = .next t ∧ OnlyPc s t ∧ ∀ k : Key, k.val = (s.reg x).toNat % 16 →
      t.pc.toNat = if s.key k = true then (s.pc.toNat + 2) % 65536 else s.pc.toNat) ∧
    (∃ t, exec (.sknp x) s = .next t ∧ OnlyPc s t ∧ ∀ k : Key, k.val = (s.reg x).toNat % 16 →
      t.pc.toNat = if s.key k = false then (s.pc.toNat + 2) % 65536 else s.pc.toNat)

/-- R212: `Fx0A`; the lowest key with a release edge is taken, and with none `pc` goes back by 2. The ascending scan
is the spec's decision D11 (log 6). -/
def Obligations.WaitForKeyRelease : Prop :=
  (∀ w : Word, opField w = 0xF → nnField w = 0x0A → decode w = .ok (.ldKey (xField w))) ∧
  ∀ (x : Reg) (s : State),
    (∀ k : Key, s.prevKey k = true → s.key k = false →
      (∀ j : Key, j < k → ¬ (s.prevKey j = true ∧ s.key j = false)) →
      ∃ t, exec (.ldKey x) s = .next t ∧ OnlyV s t ∧ SameRegsBut [x] s t ∧ (t.reg x).toNat = k.val) ∧
    ((∀ k : Key, ¬ (s.prevKey k = true ∧ s.key k = false)) →
      ∃ t, exec (.ldKey x) s = .next t ∧ OnlyPc s t ∧ (t.pc.toNat + 2) % 65536 = s.pc.toNat)

/-- R213, R214, R215: `Fx07`, `Fx15`, `Fx18`; the timer phase of the same cycle already decrements a timer set in it. -/
def Obligations.TimerRegisters : Prop :=
  (∀ w : Word, opField w = 0xF →
    (nnField w = 0x07 → decode w = .ok (.ldFromDelay (xField w))) ∧
    (nnField w = 0x15 → decode w = .ok (.ldDelay (xField w))) ∧
    (nnField w = 0x18 → decode w = .ok (.ldSound (xField w)))) ∧
  ∀ (x : Reg) (s : State),
    (∃ t, exec (.ldFromDelay x) s = .next t ∧ OnlyV s t ∧ SameRegsBut [x] s t ∧ t.reg x = s.delayTimer) ∧
    (∃ t, exec (.ldDelay x) s = .next t ∧ t = { s with delayTimer := s.reg x } ∧
      (phaseC t).delayTimer.toNat = (s.reg x).toNat - 1) ∧
    (∃ t, exec (.ldSound x) s = .next t ∧ t = { s with soundTimer := s.reg x } ∧
      (phaseC t).soundTimer.toNat = (s.reg x).toNat - 1)

/-! ### The cycle driver (45_cycle_driver.md) -/

/-- R231: phase A clears both flags and changes nothing else of the spec's state; the burst starts. The step is one
that follows a request. The phase counter is the model's choice (log 2). -/
def Obligations.PhaseAClearsFlags : Prop :=
  ∀ s : State, hostTurn s = none → s.halt = .running → s.phase = .flagReset →
    ∃ t, step s = .next t ∧
      t = { s with drawFlag := false, soundFlag := false, phase := .burst 0, hostPlan := t.hostPlan }

/-- R233, R234: phase C sets `sound_flag` when the sound timer is nonzero before its decrement, and decrements each
timer that is above 0. What sets `sound_flag` is the spec's decision D12 (log 6); the phase counter is the model's
choice (log 2). -/
def Obligations.PhaseCTicksTimers : Prop :=
  ∀ s : State, hostTurn s = none → s.halt = .running → s.phase = .timers →
    ∃ t, step s = .next t ∧
      (0 < s.soundTimer.toNat → t.soundFlag = true) ∧ (s.soundTimer.toNat = 0 → t.soundFlag = s.soundFlag) ∧
      t.delayTimer.toNat = s.delayTimer.toNat - 1 ∧ t.soundTimer.toNat = s.soundTimer.toNat - 1 ∧
      t = { s with
        soundFlag := t.soundFlag
        delayTimer := t.delayTimer
        soundTimer := t.soundTimer
        phase := .snapshot
        hostPlan := t.hostPlan }

/-- R235: phase D copies every entry of `keypad` and changes nothing else of the spec's state; the cycle is over.
The phase counter is the model's choice (log 2). -/
def Obligations.PhaseDSnapshotsKeys : Prop :=
  ∀ s : State, hostTurn s = none → s.halt = .running → s.phase = .snapshot →
    ∃ t, step s = .next t ∧ (∀ k : Key, t.prevKey k = s.key k) ∧
      t = { s with prevKeypad := t.prevKeypad, phase := .idle, hostPlan := t.hostPlan }

/-- R230, R237: a whole cycle is phase A, `BURST` instruction steps, phase C, phase D in this order; a fault in the
burst ends it there, without phases C and D; in a faulted core it does nothing (R252). Phase counter and one action
at a time are the model's choice (log 2); faults are decisions D1 and D2 (log 6). That this `cycle` is what a
request of the host runs is `CycleOnlyOnRequest`. -/
def Obligations.CycleIsItsPhases : Prop :=
  ∀ s : State, s.params.wf = true →
    (s.halt = .running → s.phase.standsStill = true →
      let t := engineSteps s.params.burst (phaseA s)
      (t.halt = .running → cycle s = phaseD (phaseC t)) ∧ (t.halt ≠ .running → cycle s = t)) ∧
    (s.halt ≠ .running → cycle s = s)

/-- R12, R230, R238, R263: the core does nothing between `Cycle` requests; a request in a core that stands still makes
phase A its next action, and in a faulted core changes nothing (R252); and the steps of the whole machine from a
request, with nothing else planned, are the phases of one cycle (with `CycleIsItsPhases`). That an idle core takes
steps and that a planned request is held until the core stands still are the model's choice (log 2, log 7); the
faulted core is decision D2. -/
def Obligations.CycleOnlyOnRequest : Prop :=
  ∀ s : State,
    (s.halt = .running → s.phase.standsStill = true → hostTurn s = none →
      step s = .next { s with hostPlan := (hostWait s).hostPlan }) ∧
    (∀ u, s.halt = .running → hostTurn s = some (.cycle, u) →
      s.phase.standsStill = true ∧ step s = .next { s with phase := .flagReset, hostPlan := u.hostPlan }) ∧
    (∀ u, s.halt ≠ .running → hostTurn s = some (.cycle, u) → step s = .next { s with hostPlan := u.hostPlan }) ∧
    (s.params.wf = true → s.halt ≠ .running ∨ s.phase.standsStill = true → s.hostPlan = [⟨0, .cycle⟩] →
      machineSteps (s.params.burst + 4) s = cycle { s with hostPlan := [] })

/-- R242: a cycle that ends with `draw_flag` 0 leaves `graphics` bit for bit as it was. Marked derived in R242; the
phase hypothesis and one action at a time are the model's choice (log 2). -/
def Obligations.NoDrawFlagNoDrawing : Prop :=
  ∀ s : State, s.halt = .running → s.phase.standsStill = true → s.params.wf = true →
    (cycle s).drawFlag = false → (cycle s).graphics = s.graphics

/-- R121: a jump to its own address is the idle loop: over a whole cycle only what the phases write changes, and
`opcode` holds the jump. What `sound_flag` becomes is decision D12 (log 6); the phase clauses and one action at a
time are the model's choice (log 2). -/
def Obligations.JumpToSelfIdles : Prop :=
  ∀ (s : State) (nnn : BitVec 12), s.halt = .running → s.phase.standsStill = true → s.params.wf = true →
    decode s.fetched = .ok (.jp nnn) → s.pc.toNat = nnn.toNat →
    ∃ t, cycle s = t ∧ t.soundFlag = decide (0 < s.soundTimer.toNat) ∧
      t.delayTimer.toNat = s.delayTimer.toNat - 1 ∧ t.soundTimer.toNat = s.soundTimer.toNat - 1 ∧
      t = { s with
        opcode := s.fetched
        drawFlag := false
        soundFlag := t.soundFlag
        delayTimer := t.delayTimer
        soundTimer := t.soundTimer
        prevKeypad := s.keypad
        phase := .idle }

/-! ### Faults (60_exceptions.md) -/

/-- R251, R252: the step of a `00EE` on an empty stack, and of a `2nnn` at `sp = 15`, is a fault entry: `opcode`
holds the word, `pc` the address after it, `halt` the fault, and nothing else of the spec's state changes. Faults
are the spec's decisions D1 and D2; that the entry is a next state is the model's reading (log 1). -/
def Obligations.FaultEntryIsPrecise : Prop :=
  ∀ (s : State) (k : Nat), hostTurn s = none → s.halt = .running → s.phase = .burst k →
    (decode s.fetched = .ok .ret → s.sp = 0 → ∃ t, step s = .next t ∧
      t = { s with
        opcode := s.fetched
        pc := s.pc + 2
        halt := .faulted .stackUnderflow
        phase := t.phase
        hostPlan := t.hostPlan }) ∧
    (∀ nnn, decode s.fetched = .ok (.call nnn) → s.sp = 15 → ∃ t, step s = .next t ∧
      t = { s with
        opcode := s.fetched
        pc := s.pc + 2
        halt := .faulted .stackOverflow
        phase := t.phase
        hostPlan := t.hostPlan })

/-- R252, R243: in a faulted core the only thing that happens is a host operation, and it leaves everything but
`keypad` as it is unless it is Reset; with no operation to come the machine stops with its fault. The faulted state
is decision D2; that the machine stops there, and that the next host operation comes at once, are the model's
reading and choice (log 1, log 7). -/
def Obligations.FaultedUntilReset : Prop :=
  ∀ (s : State) (f : Fault), Inv s → s.halt = .faulted f →
    (s.hostPlan = [] → step s = .fault f) ∧
    (∀ t, step s = .next t →
      t = hostReset { s with hostPlan := t.hostPlan } ∨ t = { s with keypad := t.keypad, hostPlan := t.hostPlan })

/-- R10, R251: a step stops with a fault only in a core where that fault is latched, and is refused only for a Load
the host may not make. Where the two stops stand is the model's choice (log 1, log 8). -/
def Obligations.StopsOnlyWhenFaulted : Prop :=
  ∀ s : State,
    (∀ f, step s = .fault f → s.halt = .faulted f ∧ s.hostPlan = []) ∧
    (∀ r, step s = .refused r → ∃ bytes t, hostTurn s = some (.load bytes, t) ∧
      (s.phase ≠ .boot ∧ r = .loadDuringRun ∨ s.phase = .boot ∧ 3584 < bytes.length ∧ r = .imageTooLong))

/-! ### Reset and the host (70_reset_and_hazards.md, 45_cycle_driver.md) -/

/-- R41, R280: the state after Reset, from any state, for the machine's own `FONT`. Reset from any state is decision
D21 (inside a cycle: the model's choice, log 16), the latch `halt` decision D2 (log 6); that Reset keeps the
machine's `FONT` is the model's reading (log 13). -/
def Obligations.ResetState : Prop :=
  ∀ s : State, ∃ t, hostOp .reset s = .next t ∧
    (∀ a : Fin 80, t.load? a.val = some s.params.font[a]) ∧ (∀ a, 80 ≤ a → a < 4096 → t.load? a = some 0) ∧
    (∀ r : Reg, t.reg r = 0) ∧ t.i = 0 ∧ t.pc = 0x200 ∧ t.sp = 0 ∧ (∀ k : Fin 16, t.stack[k] = 0) ∧
    (∀ k < 2048, t.graphics.cell k = false) ∧ (∀ k : Key, t.key k = false ∧ t.prevKey k = false) ∧
    t.delayTimer = 0 ∧ t.soundTimer = 0 ∧ t.drawFlag = false ∧ t.soundFlag = false ∧ t.opcode = 0 ∧ t.halt = .running

/-- R239: Load writes the image at 0x200 upwards and no other byte, and changes nothing else; before the first
cycle, for an image of at most 3584 bytes; a longer one is refused. The refusal is the spec's decision D19; the
phase that says "before the first cycle" is the model's choice (log 2, log 8). -/
def Obligations.LoadWritesTheImage : Prop :=
  ∀ (bytes : List Byte) (s : State), s.phase = .boot →
    (bytes.length ≤ 3584 → ∃ t, hostOp (.load bytes) s = .next t ∧ t = { s with mem := t.mem } ∧
      (∀ j, j < bytes.length → t.load? (0x200 + j) = bytes[j]?) ∧
      (∀ a, a < 0x200 ∨ 0x200 + bytes.length ≤ a → t.load? a = s.load? a)) ∧
    (3584 < bytes.length → hostOp (.load bytes) s = .refused .imageTooLong)

/-- R240: a key event writes its one entry of `keypad` and nothing else. -/
def Obligations.KeyEventsWriteOneEntry : Prop :=
  ∀ (k : Key) (s : State),
    (∃ t, hostOp (.keyDown k) s = .next t ∧ t = { s with keypad := t.keypad } ∧ t.key k = true ∧
      ∀ j : Key, j ≠ k → t.key j = s.key j) ∧
    (∃ t, hostOp (.keyUp k) s = .next t ∧ t = { s with keypad := t.keypad } ∧ t.key k = false ∧
      ∀ j : Key, j ≠ k → t.key j = s.key j)

/-- R241, R238: a planned operation whose wait is over comes before the next action of the core, whatever that
action is, but a `Cycle` only in a core that stands still; inside a cycle, one that does not come yet waits while
the core takes its action; in a core that stands still, it waits through an idle step or through the host's own
request of a cycle. Any two actions: decision D14; plan and requests are the model's choice (log 7, log 15); that a
Reset comes inside a cycle too is the model's choice (log 16). -/
def Obligations.HostActsBetweenActions : Prop :=
  ∀ (s : State) (e : HostEvent) (rest : List HostEvent), s.hostPlan = e :: rest →
    (e.wait = 0 → (e.op = .cycle → s.phase.standsStill = true) →
      step s = hostOp e.op { s with hostPlan := rest }) ∧
    (0 < e.wait ∨ e.op = .cycle → s.halt = .running → s.phase.standsStill = false →
      step s = coreAction { s with hostPlan := { wait := e.wait - 1, op := e.op } :: rest }) ∧
    (0 < e.wait → s.halt = .running → s.phase.standsStill = true →
      step s = if s.hostCycles = true then hostOp .cycle s
        else .next { s with hostPlan := { wait := e.wait - 1, op := e.op } :: rest })

/-! ### Rules about the whole machine -/

/-- R43: which instructions can change which component. The matrix is marked derived in R43. Beside it, and in no
row of R43: the clauses on draws are the model's bookkeeping (log 4, log 5), so are those on phase, host plan and
host requests (log 2, log 7, log 15) and parameters (log 3, log 12). -/
def Obligations.AccessMatrix : Prop :=
  ∀ (i : Instr) (s t : State), exec i s = .next t →
    (t.keypad = s.keypad ∧ t.prevKeypad = s.prevKeypad ∧ t.soundFlag = s.soundFlag ∧ t.opcode = s.opcode ∧
      t.params = s.params ∧ t.phase = s.phase ∧ t.hostPlan = s.hostPlan ∧ t.hostCycles = s.hostCycles) ∧
    (t.mem ≠ s.mem → ∃ x, i = .ldBcd x ∨ i = .storeRegs x) ∧
    (t.graphics ≠ s.graphics ∨ t.drawFlag ≠ s.drawFlag → i = .cls ∨ ∃ x y n, i = .drw x y n) ∧
    (t.i ≠ s.i → (∃ nnn, i = .ldI nnn) ∨ ∃ x, i = .addI x ∨ i = .ldFont x ∨ i = .storeRegs x ∨ i = .loadRegs x) ∧
    (t.draws ≠ s.draws → (∃ x nn, i = .rnd x nn) ∨ ∃ x y n, i = .drw x y n) ∧
    (t.sp ≠ s.sp → i = .ret ∨ ∃ nnn, i = .call nnn) ∧ (t.stack ≠ s.stack → ∃ nnn, i = .call nnn) ∧
    (t.delayTimer ≠ s.delayTimer → ∃ x, i = .ldDelay x) ∧ (t.soundTimer ≠ s.soundTimer → ∃ x, i = .ldSound x) ∧
    (t.pc ≠ s.pc → i = .ret ∨ (∃ nnn, i = .jp nnn ∨ i = .call nnn ∨ i = .jpV0 nnn) ∨
      (∃ x nn, i = .seImm x nn ∨ i = .sneImm x nn) ∨ (∃ x y, i = .seReg x y ∨ i = .sneReg x y) ∨
      ∃ x, i = .skp x ∨ i = .sknp x ∨ i = .ldKey x)

/-- R22: who can change `V[0xF]`: the flag writers, and the instructions that name it. That `Dxyn` is a flag writer
without a collision too is decision D7. -/
def Obligations.FlagRegisterWriters : Prop :=
  ∀ (i : Instr) (s t : State), exec i s = .next t → t.reg vf ≠ s.reg vf →
    (∃ x y, i = .orReg x y ∨ i = .andReg x y ∨ i = .xorReg x y ∨ i = .addReg x y ∨ i = .subReg x y ∨ i = .subnReg x y ∨
      i = .shr x y ∨ i = .shl x y) ∨ (∃ x y n, i = .drw x y n) ∨
    (∃ nn, i = .ldImm vf nn ∨ i = .addImm vf nn ∨ i = .rnd vf nn) ∨ (∃ y, i = .ldReg vf y) ∨
    i = .ldFromDelay vf ∨ i = .ldKey vf ∨ i = .loadRegs vf

/-- R35, R36, R38: no instruction reads `sound_timer`, `draw_flag` or `sound_flag`: two states that differ only there
give next states that agree on everything else. -/
def Obligations.OutputsAreNeverRead : Prop :=
  ∀ (i : Instr) (s t u v : State), u = { s with soundTimer := u.soundTimer, drawFlag := u.drawFlag, soundFlag := u.soundFlag } →
    exec i s = .next t → exec i u = .next v →
    v = { t with soundTimer := v.soundTimer, drawFlag := v.drawFlag, soundFlag := v.soundFlag }

/-- Two memories in canonical form that read the same at every address are the same data. The canonical form is the
model's choice (log 9). -/
def Obligations.CanonicalMemoryIsUnique : Prop :=
  ∀ (font : Vector Byte 80) (m m' : Memory), Memory.wf font m = true → Memory.wf font m' = true →
    (∀ a < 4096, Memory.read font m a = Memory.read font m' a) → m = m'

/-- The invariant holds after reset (R41). The invariant is the model's (log 1, log 2, log 9). -/
def Obligations.InvariantAtReset : Prop := Inv State.reset

/-- Every step from a state that meets the invariant, host operations included, gives one that meets it (R25, R26,
R232, R252). The invariant is the model's (log 1, log 2, log 9). -/
def Obligations.InvariantKept : Prop := ∀ s t : State, Inv s → step s = .next t → Inv t
end

