-- ==== Sys2Proof/Laws/State.lean ====
section
/-!
SUPPORT. One lemma per field per update of State, so that no proof unfolds a record update.
-/

namespace Sys2Proof.Machine

variable (s : State)

/-! `setReg` -/

@[simp] theorem State.setReg_v (r : Reg) (b : Byte) : (s.setReg r b).v = s.v.set r b := rfl
@[simp] theorem State.setReg_i (r : Reg) (b : Byte) : (s.setReg r b).i = s.i := rfl
@[simp] theorem State.setReg_pc (r : Reg) (b : Byte) : (s.setReg r b).pc = s.pc := rfl
@[simp] theorem State.setReg_sp (r : Reg) (b : Byte) : (s.setReg r b).sp = s.sp := rfl
@[simp] theorem State.setReg_stack (r : Reg) (b : Byte) : (s.setReg r b).stack = s.stack := rfl
@[simp] theorem State.setReg_mem (r : Reg) (b : Byte) : (s.setReg r b).mem = s.mem := rfl
@[simp] theorem State.setReg_graphics (r : Reg) (b : Byte) : (s.setReg r b).graphics = s.graphics := rfl
@[simp] theorem State.setReg_keypad (r : Reg) (b : Byte) : (s.setReg r b).keypad = s.keypad := rfl
@[simp] theorem State.setReg_prevKeypad (r : Reg) (b : Byte) : (s.setReg r b).prevKeypad = s.prevKeypad := rfl
@[simp] theorem State.setReg_delayTimer (r : Reg) (b : Byte) : (s.setReg r b).delayTimer = s.delayTimer := rfl
@[simp] theorem State.setReg_soundTimer (r : Reg) (b : Byte) : (s.setReg r b).soundTimer = s.soundTimer := rfl
@[simp] theorem State.setReg_drawFlag (r : Reg) (b : Byte) : (s.setReg r b).drawFlag = s.drawFlag := rfl
@[simp] theorem State.setReg_soundFlag (r : Reg) (b : Byte) : (s.setReg r b).soundFlag = s.soundFlag := rfl
@[simp] theorem State.setReg_opcode (r : Reg) (b : Byte) : (s.setReg r b).opcode = s.opcode := rfl
@[simp] theorem State.setReg_halt (r : Reg) (b : Byte) : (s.setReg r b).halt = s.halt := rfl
@[simp] theorem State.setReg_params (r : Reg) (b : Byte) : (s.setReg r b).params = s.params := rfl
@[simp] theorem State.setReg_phase (r : Reg) (b : Byte) : (s.setReg r b).phase = s.phase := rfl
@[simp] theorem State.setReg_draws (r : Reg) (b : Byte) : (s.setReg r b).draws = s.draws := rfl
@[simp] theorem State.setReg_hostPlan (r : Reg) (b : Byte) : (s.setReg r b).hostPlan = s.hostPlan := rfl
@[simp] theorem State.setReg_hostCycles (r : Reg) (b : Byte) : (s.setReg r b).hostCycles = s.hostCycles := rfl

/-! `setI` -/

@[simp] theorem State.setI_v (w : Word) : (s.setI w).v = s.v := rfl
@[simp] theorem State.setI_i (w : Word) : (s.setI w).i = w := rfl
@[simp] theorem State.setI_pc (w : Word) : (s.setI w).pc = s.pc := rfl
@[simp] theorem State.setI_sp (w : Word) : (s.setI w).sp = s.sp := rfl
@[simp] theorem State.setI_stack (w : Word) : (s.setI w).stack = s.stack := rfl
@[simp] theorem State.setI_mem (w : Word) : (s.setI w).mem = s.mem := rfl
@[simp] theorem State.setI_graphics (w : Word) : (s.setI w).graphics = s.graphics := rfl
@[simp] theorem State.setI_keypad (w : Word) : (s.setI w).keypad = s.keypad := rfl
@[simp] theorem State.setI_prevKeypad (w : Word) : (s.setI w).prevKeypad = s.prevKeypad := rfl
@[simp] theorem State.setI_delayTimer (w : Word) : (s.setI w).delayTimer = s.delayTimer := rfl
@[simp] theorem State.setI_soundTimer (w : Word) : (s.setI w).soundTimer = s.soundTimer := rfl
@[simp] theorem State.setI_drawFlag (w : Word) : (s.setI w).drawFlag = s.drawFlag := rfl
@[simp] theorem State.setI_soundFlag (w : Word) : (s.setI w).soundFlag = s.soundFlag := rfl
@[simp] theorem State.setI_opcode (w : Word) : (s.setI w).opcode = s.opcode := rfl
@[simp] theorem State.setI_halt (w : Word) : (s.setI w).halt = s.halt := rfl
@[simp] theorem State.setI_params (w : Word) : (s.setI w).params = s.params := rfl
@[simp] theorem State.setI_phase (w : Word) : (s.setI w).phase = s.phase := rfl
@[simp] theorem State.setI_draws (w : Word) : (s.setI w).draws = s.draws := rfl
@[simp] theorem State.setI_hostPlan (w : Word) : (s.setI w).hostPlan = s.hostPlan := rfl
@[simp] theorem State.setI_hostCycles (w : Word) : (s.setI w).hostCycles = s.hostCycles := rfl

/-! `setPc` -/

@[simp] theorem State.setPc_v (w : Word) : (s.setPc w).v = s.v := rfl
@[simp] theorem State.setPc_i (w : Word) : (s.setPc w).i = s.i := rfl
@[simp] theorem State.setPc_pc (w : Word) : (s.setPc w).pc = w := rfl
@[simp] theorem State.setPc_sp (w : Word) : (s.setPc w).sp = s.sp := rfl
@[simp] theorem State.setPc_stack (w : Word) : (s.setPc w).stack = s.stack := rfl
@[simp] theorem State.setPc_mem (w : Word) : (s.setPc w).mem = s.mem := rfl
@[simp] theorem State.setPc_graphics (w : Word) : (s.setPc w).graphics = s.graphics := rfl
@[simp] theorem State.setPc_keypad (w : Word) : (s.setPc w).keypad = s.keypad := rfl
@[simp] theorem State.setPc_prevKeypad (w : Word) : (s.setPc w).prevKeypad = s.prevKeypad := rfl
@[simp] theorem State.setPc_delayTimer (w : Word) : (s.setPc w).delayTimer = s.delayTimer := rfl
@[simp] theorem State.setPc_soundTimer (w : Word) : (s.setPc w).soundTimer = s.soundTimer := rfl
@[simp] theorem State.setPc_drawFlag (w : Word) : (s.setPc w).drawFlag = s.drawFlag := rfl
@[simp] theorem State.setPc_soundFlag (w : Word) : (s.setPc w).soundFlag = s.soundFlag := rfl
@[simp] theorem State.setPc_opcode (w : Word) : (s.setPc w).opcode = s.opcode := rfl
@[simp] theorem State.setPc_halt (w : Word) : (s.setPc w).halt = s.halt := rfl
@[simp] theorem State.setPc_params (w : Word) : (s.setPc w).params = s.params := rfl
@[simp] theorem State.setPc_phase (w : Word) : (s.setPc w).phase = s.phase := rfl
@[simp] theorem State.setPc_draws (w : Word) : (s.setPc w).draws = s.draws := rfl
@[simp] theorem State.setPc_hostPlan (w : Word) : (s.setPc w).hostPlan = s.hostPlan := rfl
@[simp] theorem State.setPc_hostCycles (w : Word) : (s.setPc w).hostCycles = s.hostCycles := rfl

/-! `skip` -/

@[simp] theorem State.skip_v : (s.skip).v = s.v := rfl
@[simp] theorem State.skip_i : (s.skip).i = s.i := rfl
@[simp] theorem State.skip_pc : (s.skip).pc = s.pc + 2 := rfl
@[simp] theorem State.skip_sp : (s.skip).sp = s.sp := rfl
@[simp] theorem State.skip_stack : (s.skip).stack = s.stack := rfl
@[simp] theorem State.skip_mem : (s.skip).mem = s.mem := rfl
@[simp] theorem State.skip_graphics : (s.skip).graphics = s.graphics := rfl
@[simp] theorem State.skip_keypad : (s.skip).keypad = s.keypad := rfl
@[simp] theorem State.skip_prevKeypad : (s.skip).prevKeypad = s.prevKeypad := rfl
@[simp] theorem State.skip_delayTimer : (s.skip).delayTimer = s.delayTimer := rfl
@[simp] theorem State.skip_soundTimer : (s.skip).soundTimer = s.soundTimer := rfl
@[simp] theorem State.skip_drawFlag : (s.skip).drawFlag = s.drawFlag := rfl
@[simp] theorem State.skip_soundFlag : (s.skip).soundFlag = s.soundFlag := rfl
@[simp] theorem State.skip_opcode : (s.skip).opcode = s.opcode := rfl
@[simp] theorem State.skip_halt : (s.skip).halt = s.halt := rfl
@[simp] theorem State.skip_params : (s.skip).params = s.params := rfl
@[simp] theorem State.skip_phase : (s.skip).phase = s.phase := rfl
@[simp] theorem State.skip_draws : (s.skip).draws = s.draws := rfl
@[simp] theorem State.skip_hostPlan : (s.skip).hostPlan = s.hostPlan := rfl
@[simp] theorem State.skip_hostCycles : (s.skip).hostCycles = s.hostCycles := rfl

/-! `push` -/

@[simp] theorem State.push_v : (s.push).v = s.v := rfl
@[simp] theorem State.push_i : (s.push).i = s.i := rfl
@[simp] theorem State.push_pc : (s.push).pc = s.pc := rfl
@[simp] theorem State.push_sp : (s.push).sp = s.sp + 1 := rfl
@[simp] theorem State.push_stack : (s.push).stack = s.stack.set (s.sp + 1).toNat s.pc (s.sp + 1).isLt := rfl
@[simp] theorem State.push_mem : (s.push).mem = s.mem := rfl
@[simp] theorem State.push_graphics : (s.push).graphics = s.graphics := rfl
@[simp] theorem State.push_keypad : (s.push).keypad = s.keypad := rfl
@[simp] theorem State.push_prevKeypad : (s.push).prevKeypad = s.prevKeypad := rfl
@[simp] theorem State.push_delayTimer : (s.push).delayTimer = s.delayTimer := rfl
@[simp] theorem State.push_soundTimer : (s.push).soundTimer = s.soundTimer := rfl
@[simp] theorem State.push_drawFlag : (s.push).drawFlag = s.drawFlag := rfl
@[simp] theorem State.push_soundFlag : (s.push).soundFlag = s.soundFlag := rfl
@[simp] theorem State.push_opcode : (s.push).opcode = s.opcode := rfl
@[simp] theorem State.push_halt : (s.push).halt = s.halt := rfl
@[simp] theorem State.push_params : (s.push).params = s.params := rfl
@[simp] theorem State.push_phase : (s.push).phase = s.phase := rfl
@[simp] theorem State.push_draws : (s.push).draws = s.draws := rfl
@[simp] theorem State.push_hostPlan : (s.push).hostPlan = s.hostPlan := rfl
@[simp] theorem State.push_hostCycles : (s.push).hostCycles = s.hostCycles := rfl

/-! `pop` -/

@[simp] theorem State.pop_v : (s.pop).v = s.v := rfl
@[simp] theorem State.pop_i : (s.pop).i = s.i := rfl
@[simp] theorem State.pop_pc : (s.pop).pc = s.stack[s.sp.toNat]'s.sp.isLt := rfl
@[simp] theorem State.pop_sp : (s.pop).sp = s.sp - 1 := rfl
@[simp] theorem State.pop_stack : (s.pop).stack = s.stack := rfl
@[simp] theorem State.pop_mem : (s.pop).mem = s.mem := rfl
@[simp] theorem State.pop_graphics : (s.pop).graphics = s.graphics := rfl
@[simp] theorem State.pop_keypad : (s.pop).keypad = s.keypad := rfl
@[simp] theorem State.pop_prevKeypad : (s.pop).prevKeypad = s.prevKeypad := rfl
@[simp] theorem State.pop_delayTimer : (s.pop).delayTimer = s.delayTimer := rfl
@[simp] theorem State.pop_soundTimer : (s.pop).soundTimer = s.soundTimer := rfl
@[simp] theorem State.pop_drawFlag : (s.pop).drawFlag = s.drawFlag := rfl
@[simp] theorem State.pop_soundFlag : (s.pop).soundFlag = s.soundFlag := rfl
@[simp] theorem State.pop_opcode : (s.pop).opcode = s.opcode := rfl
@[simp] theorem State.pop_halt : (s.pop).halt = s.halt := rfl
@[simp] theorem State.pop_params : (s.pop).params = s.params := rfl
@[simp] theorem State.pop_phase : (s.pop).phase = s.phase := rfl
@[simp] theorem State.pop_draws : (s.pop).draws = s.draws := rfl
@[simp] theorem State.pop_hostPlan : (s.pop).hostPlan = s.hostPlan := rfl
@[simp] theorem State.pop_hostCycles : (s.pop).hostCycles = s.hostCycles := rfl

/-! `useDraw` -/

@[simp] theorem State.useDraw_v : (s.useDraw).v = s.v := rfl
@[simp] theorem State.useDraw_i : (s.useDraw).i = s.i := rfl
@[simp] theorem State.useDraw_pc : (s.useDraw).pc = s.pc := rfl
@[simp] theorem State.useDraw_sp : (s.useDraw).sp = s.sp := rfl
@[simp] theorem State.useDraw_stack : (s.useDraw).stack = s.stack := rfl
@[simp] theorem State.useDraw_mem : (s.useDraw).mem = s.mem := rfl
@[simp] theorem State.useDraw_graphics : (s.useDraw).graphics = s.graphics := rfl
@[simp] theorem State.useDraw_keypad : (s.useDraw).keypad = s.keypad := rfl
@[simp] theorem State.useDraw_prevKeypad : (s.useDraw).prevKeypad = s.prevKeypad := rfl
@[simp] theorem State.useDraw_delayTimer : (s.useDraw).delayTimer = s.delayTimer := rfl
@[simp] theorem State.useDraw_soundTimer : (s.useDraw).soundTimer = s.soundTimer := rfl
@[simp] theorem State.useDraw_drawFlag : (s.useDraw).drawFlag = s.drawFlag := rfl
@[simp] theorem State.useDraw_soundFlag : (s.useDraw).soundFlag = s.soundFlag := rfl
@[simp] theorem State.useDraw_opcode : (s.useDraw).opcode = s.opcode := rfl
@[simp] theorem State.useDraw_halt : (s.useDraw).halt = s.halt := rfl
@[simp] theorem State.useDraw_params : (s.useDraw).params = s.params := rfl
@[simp] theorem State.useDraw_phase : (s.useDraw).phase = s.phase := rfl
@[simp] theorem State.useDraw_draws : (s.useDraw).draws = s.draws + 1 := rfl
@[simp] theorem State.useDraw_hostPlan : (s.useDraw).hostPlan = s.hostPlan := rfl
@[simp] theorem State.useDraw_hostCycles : (s.useDraw).hostCycles = s.hostCycles := rfl

/-! `fetchAdvance` -/

@[simp] theorem State.fetchAdvance_v : (s.fetchAdvance).v = s.v := rfl
@[simp] theorem State.fetchAdvance_i : (s.fetchAdvance).i = s.i := rfl
@[simp] theorem State.fetchAdvance_pc : (s.fetchAdvance).pc = s.pc + 2 := rfl
@[simp] theorem State.fetchAdvance_sp : (s.fetchAdvance).sp = s.sp := rfl
@[simp] theorem State.fetchAdvance_stack : (s.fetchAdvance).stack = s.stack := rfl
@[simp] theorem State.fetchAdvance_mem : (s.fetchAdvance).mem = s.mem := rfl
@[simp] theorem State.fetchAdvance_graphics : (s.fetchAdvance).graphics = s.graphics := rfl
@[simp] theorem State.fetchAdvance_keypad : (s.fetchAdvance).keypad = s.keypad := rfl
@[simp] theorem State.fetchAdvance_prevKeypad : (s.fetchAdvance).prevKeypad = s.prevKeypad := rfl
@[simp] theorem State.fetchAdvance_delayTimer : (s.fetchAdvance).delayTimer = s.delayTimer := rfl
@[simp] theorem State.fetchAdvance_soundTimer : (s.fetchAdvance).soundTimer = s.soundTimer := rfl
@[simp] theorem State.fetchAdvance_drawFlag : (s.fetchAdvance).drawFlag = s.drawFlag := rfl
@[simp] theorem State.fetchAdvance_soundFlag : (s.fetchAdvance).soundFlag = s.soundFlag := rfl
@[simp] theorem State.fetchAdvance_opcode : (s.fetchAdvance).opcode = s.fetched := rfl
@[simp] theorem State.fetchAdvance_halt : (s.fetchAdvance).halt = s.halt := rfl
@[simp] theorem State.fetchAdvance_params : (s.fetchAdvance).params = s.params := rfl
@[simp] theorem State.fetchAdvance_phase : (s.fetchAdvance).phase = s.phase.afterStep s.params.burst := rfl
@[simp] theorem State.fetchAdvance_draws : (s.fetchAdvance).draws = s.draws := rfl
@[simp] theorem State.fetchAdvance_hostPlan : (s.fetchAdvance).hostPlan = s.hostPlan := rfl
@[simp] theorem State.fetchAdvance_hostCycles : (s.fetchAdvance).hostCycles = s.hostCycles := rfl

/-! `store`: only `mem` can change. -/

@[simp] theorem State.store_v (a : Nat) (b : Byte) : (s.store a b).v = s.v := by unfold State.store; split <;> rfl
@[simp] theorem State.store_i (a : Nat) (b : Byte) : (s.store a b).i = s.i := by unfold State.store; split <;> rfl
@[simp] theorem State.store_pc (a : Nat) (b : Byte) : (s.store a b).pc = s.pc := by unfold State.store; split <;> rfl
@[simp] theorem State.store_sp (a : Nat) (b : Byte) : (s.store a b).sp = s.sp := by unfold State.store; split <;> rfl
@[simp] theorem State.store_stack (a : Nat) (b : Byte) : (s.store a b).stack = s.stack := by unfold State.store; split <;> rfl
@[simp] theorem State.store_graphics (a : Nat) (b : Byte) : (s.store a b).graphics = s.graphics := by unfold State.store; split <;> rfl
@[simp] theorem State.store_keypad (a : Nat) (b : Byte) : (s.store a b).keypad = s.keypad := by unfold State.store; split <;> rfl
@[simp] theorem State.store_prevKeypad (a : Nat) (b : Byte) : (s.store a b).prevKeypad = s.prevKeypad := by unfold State.store; split <;> rfl
@[simp] theorem State.store_delayTimer (a : Nat) (b : Byte) : (s.store a b).delayTimer = s.delayTimer := by unfold State.store; split <;> rfl
@[simp] theorem State.store_soundTimer (a : Nat) (b : Byte) : (s.store a b).soundTimer = s.soundTimer := by unfold State.store; split <;> rfl
@[simp] theorem State.store_drawFlag (a : Nat) (b : Byte) : (s.store a b).drawFlag = s.drawFlag := by unfold State.store; split <;> rfl
@[simp] theorem State.store_soundFlag (a : Nat) (b : Byte) : (s.store a b).soundFlag = s.soundFlag := by unfold State.store; split <;> rfl
@[simp] theorem State.store_opcode (a : Nat) (b : Byte) : (s.store a b).opcode = s.opcode := by unfold State.store; split <;> rfl
@[simp] theorem State.store_halt (a : Nat) (b : Byte) : (s.store a b).halt = s.halt := by unfold State.store; split <;> rfl
@[simp] theorem State.store_params (a : Nat) (b : Byte) : (s.store a b).params = s.params := by unfold State.store; split <;> rfl
@[simp] theorem State.store_phase (a : Nat) (b : Byte) : (s.store a b).phase = s.phase := by unfold State.store; split <;> rfl
@[simp] theorem State.store_draws (a : Nat) (b : Byte) : (s.store a b).draws = s.draws := by unfold State.store; split <;> rfl
@[simp] theorem State.store_hostPlan (a : Nat) (b : Byte) : (s.store a b).hostPlan = s.hostPlan := by unfold State.store; split <;> rfl
@[simp] theorem State.store_hostCycles (a : Nat) (b : Byte) : (s.store a b).hostCycles = s.hostCycles := by unfold State.store; split <;> rfl

/-! `skipIf`: only `pc` can change. -/

@[simp] theorem State.skipIf_v (c : Bool) : (s.skipIf c).v = s.v := by cases c <;> rfl
@[simp] theorem State.skipIf_i (c : Bool) : (s.skipIf c).i = s.i := by cases c <;> rfl
@[simp] theorem State.skipIf_sp (c : Bool) : (s.skipIf c).sp = s.sp := by cases c <;> rfl
@[simp] theorem State.skipIf_stack (c : Bool) : (s.skipIf c).stack = s.stack := by cases c <;> rfl
@[simp] theorem State.skipIf_mem (c : Bool) : (s.skipIf c).mem = s.mem := by cases c <;> rfl
@[simp] theorem State.skipIf_graphics (c : Bool) : (s.skipIf c).graphics = s.graphics := by cases c <;> rfl
@[simp] theorem State.skipIf_keypad (c : Bool) : (s.skipIf c).keypad = s.keypad := by cases c <;> rfl
@[simp] theorem State.skipIf_prevKeypad (c : Bool) : (s.skipIf c).prevKeypad = s.prevKeypad := by cases c <;> rfl
@[simp] theorem State.skipIf_delayTimer (c : Bool) : (s.skipIf c).delayTimer = s.delayTimer := by cases c <;> rfl
@[simp] theorem State.skipIf_soundTimer (c : Bool) : (s.skipIf c).soundTimer = s.soundTimer := by cases c <;> rfl
@[simp] theorem State.skipIf_drawFlag (c : Bool) : (s.skipIf c).drawFlag = s.drawFlag := by cases c <;> rfl
@[simp] theorem State.skipIf_soundFlag (c : Bool) : (s.skipIf c).soundFlag = s.soundFlag := by cases c <;> rfl
@[simp] theorem State.skipIf_opcode (c : Bool) : (s.skipIf c).opcode = s.opcode := by cases c <;> rfl
@[simp] theorem State.skipIf_halt (c : Bool) : (s.skipIf c).halt = s.halt := by cases c <;> rfl
@[simp] theorem State.skipIf_params (c : Bool) : (s.skipIf c).params = s.params := by cases c <;> rfl
@[simp] theorem State.skipIf_phase (c : Bool) : (s.skipIf c).phase = s.phase := by cases c <;> rfl
@[simp] theorem State.skipIf_draws (c : Bool) : (s.skipIf c).draws = s.draws := by cases c <;> rfl
@[simp] theorem State.skipIf_hostPlan (c : Bool) : (s.skipIf c).hostPlan = s.hostPlan := by cases c <;> rfl
@[simp] theorem State.skipIf_hostCycles (c : Bool) : (s.skipIf c).hostCycles = s.hostCycles := by cases c <;> rfl

@[simp] theorem State.skipIf_pc (c : Bool) : (s.skipIf c).pc = if c then s.pc + 2 else s.pc := by cases c <;> rfl

/-! Reading a register back. -/

@[simp] theorem State.reg_setReg_self (r : Reg) (b : Byte) : (s.setReg r b).reg r = b := by
  simp [State.reg, State.setReg]

theorem State.reg_setReg (r q : Reg) (b : Byte) : (s.setReg r b).reg q = if q = r then b else s.reg q := by
  simp only [State.reg, State.setReg, Fin.getElem_fin, Vector.getElem_set]
  by_cases h : q = r
  · simp [h]
  · have : r.val ≠ q.val := fun e => h (Fin.ext e.symm)
    simp [h, this]

@[simp] theorem State.reg_setReg_ne {r q : Reg} (h : q ≠ r) (b : Byte) : (s.setReg r b).reg q = s.reg q := by
  simp [State.reg_setReg, h]

@[simp] theorem State.reg_setI (w : Word) (r : Reg) : (s.setI w).reg r = s.reg r := rfl
@[simp] theorem State.reg_setPc (w : Word) (r : Reg) : (s.setPc w).reg r = s.reg r := rfl
@[simp] theorem State.reg_useDraw (r : Reg) : s.useDraw.reg r = s.reg r := rfl
@[simp] theorem State.reg_skipIf (c : Bool) (r : Reg) : (s.skipIf c).reg r = s.reg r := by cases c <;> rfl
@[simp] theorem State.reg_store (a : Nat) (b : Byte) (r : Reg) : (s.store a b).reg r = s.reg r := by
  simp [State.reg]

end Sys2Proof.Machine
end

