-- ==== Sys2Proof/Laws/Memory.lean ====
section
/-!
SUPPORT. Memory: a read after a write, and that every memory operation keeps the canonical form.
-/

namespace Sys2Proof.Machine

variable (font : Vector Byte Config.fontSize)

theorem Memory.lookup_cons_eq (b k : Nat) (w : Byte) (m : Memory) :
    List.lookup b ((k, w) :: m) = if b = k then some w else List.lookup b m := by
  by_cases h : b = k
  · simp [h]
  · rw [List.lookup_cons, if_neg h, beq_false_of_ne h]

theorem Memory.lookup_put (a b : Nat) (v : Byte) (m : Memory) :
    List.lookup b (Memory.put a v m) = if b = a then some v else List.lookup b m := by
  induction m with
  | nil => exact Memory.lookup_cons_eq b a v []
  | cons c m ih =>
    obtain ⟨k, w⟩ := c
    simp only [Memory.put]
    split
    · rw [Memory.lookup_cons_eq]
    · split
      · rename_i h
        subst h
        by_cases h : b = a <;> simp only [Memory.lookup_cons_eq, h, if_true, if_false]
      · rename_i hne
        by_cases hk : b = k
        · subst hk
          have hba : b ≠ a := Ne.symm hne
          simp [hba]
        · simp only [Memory.lookup_cons_eq, hk, ih, if_false]

theorem Memory.lookup_filter_ne (a b : Nat) (m : Memory) :
    List.lookup b (m.filter fun c => c.1 != a) = if b = a then none else List.lookup b m := by
  induction m with
  | nil => simp
  | cons c m ih =>
    obtain ⟨k, w⟩ := c
    by_cases hk : k = a
    · subst hk
      by_cases h : b = k
      · rw [List.filter_cons_of_neg (by simp), ih, if_pos h, if_pos h]
      · rw [List.filter_cons_of_neg (by simp), ih, if_neg h, if_neg h, Memory.lookup_cons_eq, if_neg h]
    · rw [List.filter_cons_of_pos (by simpa using hk), Memory.lookup_cons_eq, Memory.lookup_cons_eq, ih]
      by_cases h : b = k
      · subst h; simp [hk]
      · simp [h]

/-- A read after a write: the byte written at its address, the old byte at every other. -/
theorem Memory.read_write (m : Memory) (a b : Nat) (v : Byte) :
    Memory.read font (Memory.write font m a v) b = if b = a then v else Memory.read font m b := by
  unfold Memory.write Memory.read
  by_cases hv : v = Memory.unlisted font a
  · rw [if_pos hv, Memory.lookup_filter_ne]
    by_cases h : b = a
    · subst h; simp [hv]
    · simp [h]
  · rw [if_neg hv, Memory.lookup_put]
    by_cases h : b = a <;> simp [h]

theorem Memory.mem_put {a : Nat} {v : Byte} {c : Host.Cell} {m : Memory} (h : c ∈ Memory.put a v m) :
    c = (a, v) ∨ c ∈ m := by
  induction m with
  | nil => simpa [Memory.put] using h
  | cons d m ih =>
    simp only [Memory.put] at h
    split at h
    · simpa using h
    · split at h
      · rcases List.mem_cons.1 h with h | h
        · exact .inl h
        · exact .inr (List.mem_cons_of_mem _ h)
      · rcases List.mem_cons.1 h with h | h
        · exact .inr (h ▸ List.mem_cons_self ..)
        · rcases ih h with h | h
          · exact .inl h
          · exact .inr (List.mem_cons_of_mem _ h)

theorem Memory.put_pairwise (a : Nat) (v : Byte) {m : Memory} (h : m.Pairwise fun c d => c.1 < d.1) :
    (Memory.put a v m).Pairwise fun c d => c.1 < d.1 := by
  induction m with
  | nil => simp [Memory.put]
  | cons c m ih =>
    obtain ⟨hc, hm⟩ := List.pairwise_cons.1 h
    simp only [Memory.put]
    split
    · rename_i hlt
      refine List.pairwise_cons.2 ⟨fun d hd => ?_, h⟩
      rcases List.mem_cons.1 hd with rfl | hd
      · exact hlt
      · exact hlt.trans (hc d hd)
    · split
      · rename_i heq
        exact List.pairwise_cons.2 ⟨fun d hd => by simpa [heq] using hc d hd, hm⟩
      · refine List.pairwise_cons.2 ⟨fun d hd => ?_, ih hm⟩
        rcases Memory.mem_put hd with rfl | hd
        · show c.1 < a; omega
        · exact hc d hd

/-- What the canonical form says. -/
theorem Memory.wf_iff (m : Memory) :
    Memory.wf font m = true ↔ (m.Pairwise fun c d => c.1 < d.1) ∧
      ∀ c ∈ m, c.1 < Config.memSize ∧ c.2 ≠ Memory.unlisted font c.1 := by
  simp [Memory.wf]

/-- A write below 4096 keeps the canonical form. -/
theorem Memory.write_wf {m : Memory} (a : Nat) (v : Byte) (ha : a < Config.memSize) (h : Memory.wf font m = true) :
    Memory.wf font (Memory.write font m a v) = true := by
  rw [Memory.wf_iff] at h ⊢
  unfold Memory.write
  split
  · exact ⟨h.1.filter _, fun c hc => h.2 c (List.mem_of_mem_filter hc)⟩
  · rename_i hv
    refine ⟨Memory.put_pairwise a v h.1, fun c hc => ?_⟩
    rcases Memory.mem_put hc with rfl | hc
    · exact ⟨ha, hv⟩
    · exact h.2 c hc

variable (s : State)

/-- A guarded write keeps the canonical form. -/
theorem State.store_wf (a : Nat) (v : Byte) (h : Memory.wf s.params.font s.mem = true) :
    Memory.wf s.params.font (s.store a v).mem = true := by
  unfold State.store
  split
  · exact Memory.write_wf _ a v (by assumption) h
  · exact h

/-- A guarded read after a guarded write. -/
theorem State.load?_store (a b : Nat) (v : Byte) :
    (s.store a v).load? b = if b = a ∧ a < Config.memSize then some v else s.load? b := by
  unfold State.store State.load?
  by_cases ha : a < Config.memSize
  · by_cases h : b = a
    · subst h; simp [ha, Memory.read_write]
    · by_cases hb : b < Config.memSize <;> simp [ha, h, hb, Memory.read_write]
  · by_cases h : b = a
    · subst h; simp [ha]
    · simp [ha]

/-- A sequence of guarded writes keeps the canonical form. -/
theorem State.storeBytes_wf (a : Nat) (bs : List Byte) (s : State) (h : Memory.wf s.params.font s.mem = true) :
    Memory.wf s.params.font (s.storeBytes a bs).mem = true := by
  induction bs generalizing s a with
  | nil => exact h
  | cons b bs ih =>
    have := ih (a + 1) (s.store a b) (by rw [State.store_params]; exact State.store_wf s a b h)
    rwa [State.store_params] at this

/-- Only `mem` can change. -/
theorem State.store_eq (a : Nat) (v : Byte) : s.store a v = { s with mem := (s.store a v).mem } := by
  unfold State.store; split <;> rfl

/-- Only `mem` can change. -/
theorem State.storeBytes_eq (a : Nat) (bs : List Byte) (s : State) :
    s.storeBytes a bs = { s with mem := (s.storeBytes a bs).mem } := by
  induction bs generalizing s a with
  | nil => rfl
  | cons b bs ih =>
    have h1 := ih (a + 1) (s.store a b)
    rw [State.storeBytes, h1]
    simp

/-- Reset memory has the canonical form, whatever the font. -/
theorem Memory.wf_nil : Memory.wf font [] = true := rfl

end Sys2Proof.Machine
end

