-- ==== Sys2Proof/Laws/Ops.lean ====
section
/-!
SUPPORT. One lemma per shared operation, saying once everything it can do.
-/

namespace Sys2Proof.Machine

variable (s : State)

/-- Taking a fault: a next state with only `halt` changed. -/
theorem State.raise_eq (f : Fault) : s.raise f = .next { s with halt := .faulted f } := rfl

/-- The guarded read in its two cases. -/
theorem State.load?_of_lt {a : Nat} (h : a < 4096) : s.load? a = some (Memory.read s.params.font s.mem a) := if_pos h

theorem State.load?_of_ge {a : Nat} (h : 4096 ≤ a) : s.load? a = none := if_neg (Nat.not_lt.2 h)

/-- The guarded read looks at `mem` and the font only. -/
theorem State.load?_congr {t : State} (hm : t.mem = s.mem) (hp : t.params = s.params) (a : Nat) :
    t.load? a = s.load? a := by simp [State.load?, hm, hp]

/-- Fetch, in the two cases of its guard (R95). -/
theorem State.fetched_of_lt (h : s.pc.toNat ≤ 4094) :
    s.fetched = wordOfBytes (Memory.read s.params.font s.mem s.pc.toNat)
      (Memory.read s.params.font s.mem (s.pc.toNat + 1)) := by
  simp only [State.fetched, s.load?_of_lt (show s.pc.toNat < 4096 by omega),
    s.load?_of_lt (show s.pc.toNat + 1 < 4096 by omega)]

theorem State.fetched_of_ge (h : 4095 ≤ s.pc.toNat) : s.fetched = s.opcode := by
  unfold State.fetched
  rw [s.load?_of_ge (a := s.pc.toNat + 1) (by omega)]
  split <;> simp_all

/-- Result, then flag (R153): what each register holds afterwards. -/
theorem State.reg_setResultFlag (x r : Reg) (a f : Byte) :
    (s.setResultFlag x a f).reg r = if r = vf then f else if r = x then a else s.reg r := by
  simp only [State.setResultFlag, State.reg_setReg]

theorem State.setResultFlag_eq (x : Reg) (a f : Byte) :
    s.setResultFlag x a f = { s with v := (s.setResultFlag x a f).v } := rfl

/-- Copy, flag, shift (R153): what each register holds afterwards. -/
theorem State.reg_copyFlagShift (x y r : Reg) (flag shift : Byte → Byte) :
    (s.copyFlagShift x y flag shift).reg r =
      if r = x then shift (if x = vf then flag (s.reg y) else s.reg y)
      else if r = vf then flag (s.reg y) else s.reg r := by
  simp only [State.copyFlagShift, State.reg_setReg, if_true]
  by_cases h : r = x
  · simp [h]
  · simp [h]

theorem State.copyFlagShift_eq (x y : Reg) (flag shift : Byte → Byte) :
    s.copyFlagShift x y flag shift = { s with v := (s.copyFlagShift x y flag shift).v } := rfl

/-- When a planned operation comes. -/
theorem HostEvent.comesNow_iff (e : HostEvent) :
    e.comesNow s = true ↔ s.halt ≠ .running ∨ e.wait = 0 ∧ (e.op = .cycle → s.phase.standsStill = true) := by
  simp [HostEvent.comesNow, imp_iff_not_or]

/-- When the host requests a cycle beside its plan. -/
theorem State.cycleRequested_iff :
    s.cycleRequested = true ↔ s.hostCycles = true ∧ s.halt = .running ∧ s.phase.standsStill = true := by
  simp [State.cycleRequested, and_assoc]

/-- The planned operation that comes now is the head of the plan. -/
theorem plannedTurn_eq_some {s t : State} {op : HostOp} (h : plannedTurn s = some (op, t)) :
    ∃ e rest, s.hostPlan = e :: rest ∧ op = e.op ∧ e.comesNow s = true ∧ t = { s with hostPlan := rest } := by
  unfold plannedTurn at h
  split at h
  · cases h
  · rename_i e rest he
    split at h
    · rename_i hw
      cases h
      exact ⟨e, rest, he, rfl, hw, rfl⟩
    · cases h

/-- The host's operation that comes now: the head of its plan, or the request of a cycle. -/
theorem hostTurn_eq_some {s t : State} {op : HostOp} (h : hostTurn s = some (op, t)) :
    (∃ e rest, s.hostPlan = e :: rest ∧ op = e.op ∧ e.comesNow s = true ∧ t = { s with hostPlan := rest }) ∨
      (op = .cycle ∧ t = s ∧ s.cycleRequested = true) := by
  unfold hostTurn at h
  split at h
  · rename_i turn ht
    cases h
    exact .inl (plannedTurn_eq_some ht)
  · split at h
    · rename_i hc
      cases h
      exact .inr ⟨rfl, rfl, hc⟩
    · cases h

/-- The host's turn leaves everything but its plan as it is. -/
theorem hostTurn_frame {s t : State} {op : HostOp} (h : hostTurn s = some (op, t)) :
    t = { s with hostPlan := t.hostPlan } := by
  obtain ⟨_, _, _, _, _, rfl⟩ | ⟨_, rfl, _⟩ := hostTurn_eq_some h <;> rfl

/-- With an empty plan and no request the turn is the core's. -/
theorem hostTurn_nil (h : s.hostPlan = []) (hc : s.cycleRequested = false) : hostTurn s = none := by
  unfold hostTurn plannedTurn
  rw [h]
  simp [hc]

/-- `Cycle` in a running core that stands still. -/
theorem hostCycle_of_standsStill (hr : s.halt = .running) (hp : s.phase.standsStill = true) :
    hostCycle s = { s with phase := .flagReset } := if_pos ⟨hr, hp⟩

/-- `Cycle` in a faulted core. -/
theorem hostCycle_of_faulted (h : s.halt ≠ .running) : hostCycle s = s := if_neg fun hc => h hc.1

/-- `Cycle` changes the phase only. -/
theorem hostCycle_eq : hostCycle s = { s with phase := (hostCycle s).phase } := by
  unfold hostCycle; split <;> rfl

/-- Waiting changes the plan only. -/
theorem hostWait_eq : hostWait s = { s with hostPlan := (hostWait s).hostPlan } := by
  unfold hostWait; split <;> rfl

/-- The host's operations that answer a next state. -/
theorem hostOp_cases {op : HostOp} {s t : State} (h : hostOp op s = .next t) :
    t = hostReset s ∨ op = .cycle ∧ t = hostCycle s ∨
      (∃ bytes, op = .load bytes ∧ s.phase = .boot ∧ bytes.length ≤ 3584 ∧ t = s.storeBytes 0x200 bytes) ∨
      (∃ k b, t = { s with keypad := s.keypad.set (k : Key) b }) := by
  cases op with
  | reset => cases h; exact .inl rfl
  | cycle => cases h; exact .inr (.inl ⟨rfl, rfl⟩)
  | load bytes =>
    simp only [hostOp, loadImage] at h
    split at h
    · cases h
    · rename_i hp
      split at h
      · rename_i hf
        cases h
        exact .inr (.inr (.inl ⟨bytes, rfl, not_not.1 hp, of_decide_eq_true hf, rfl⟩))
      · cases h
  | keyDown k => cases h; exact .inr (.inr (.inr ⟨k, true, rfl⟩))
  | keyUp k => cases h; exact .inr (.inr (.inr ⟨k, false, rfl⟩))

/-- An observed byte of memory is the byte at that address. -/
theorem observe_memory (a : Nat) (h : a < Config.memSize) : s.load? a = some (observe s).memory[a] := by
  rw [s.load?_of_lt h]
  simp [observe]

/-- When the host may observe, it gets the observation of the state. -/
theorem hostObserve_eq_some (h : s.halt ≠ .running ∨ s.phase.standsStill = true) : hostObserve s = some (observe s) :=
  if_pos h

/-- Everything an instruction step does around its execute stage. -/
theorem instructionStep_cases (s : State) :
    (∃ i, decode s.fetched = .ok i ∧ instructionStep s = exec i s.fetchAdvance) ∨
      (∃ u, decode s.fetched = .error u ∧ instructionStep s = .next s.fetchAdvance) := by
  unfold instructionStep
  rw [State.fetchAdvance_opcode]
  split
  · exact .inl ⟨_, by assumption, rfl⟩
  · exact .inr ⟨_, by assumption, rfl⟩

/-- Everything an action of the core can do. -/
theorem coreAction_cases {s t : State} (h : coreAction s = .next t) :
    s.halt = .running ∧
      (s.phase.standsStill = true ∧ t = s ∨ s.phase = .flagReset ∧ t = phaseA s ∨
        (∃ k, s.phase = .burst k) ∧ instructionStep s = .next t ∨
        s.phase = .timers ∧ t = phaseC s ∨ s.phase = .snapshot ∧ t = phaseD s) := by
  unfold coreAction at h
  split at h
  · cases h
  · rename_i hr
    refine ⟨hr, ?_⟩
    split at h
    · rename_i hp; cases h; exact .inl ⟨by rw [hp]; rfl, rfl⟩
    · rename_i hp; cases h; exact .inl ⟨by rw [hp]; rfl, rfl⟩
    · rename_i hp; cases h; exact .inr (.inl ⟨hp, rfl⟩)
    · rename_i k hp; exact .inr (.inr (.inl ⟨⟨k, hp⟩, h⟩))
    · rename_i hp; cases h; exact .inr (.inr (.inr (.inl ⟨hp, rfl⟩)))
    · rename_i hp; cases h; exact .inr (.inr (.inr (.inr ⟨hp, rfl⟩)))

/-- Everything a step can do: a host operation, or an action of the core. -/
theorem step_cases {s t : State} (h : step s = .next t) :
    (∃ op u, hostTurn s = some (op, u) ∧ hostOp op u = .next t) ∨
      (hostTurn s = none ∧ coreAction (hostWait s) = .next t) := by
  unfold step at h
  split at h
  · exact .inl ⟨_, _, by assumption, h⟩
  · exact .inr ⟨by assumption, h⟩

/-! The loops of `Fx55` and `Fx65`. -/

/-- `Fx55`'s loop changes `mem` only. -/
theorem State.storeBlock_eq (n : Nat) : s.storeBlock n = { s with mem := (s.storeBlock n).mem } := by
  induction n with
  | zero => rfl
  | succ n ih =>
    rw [State.storeBlock, ih]
    exact State.store_eq _ _ _

theorem State.storeBlock_wf (n : Nat) (h : Memory.wf s.params.font s.mem = true) :
    Memory.wf s.params.font (s.storeBlock n).mem = true := by
  induction n with
  | zero => exact h
  | succ n ih =>
    have hp : (s.storeBlock n).params = s.params := by rw [State.storeBlock_eq]
    have := State.store_wf (s.storeBlock n) (s.element n) (s.reg (elementReg n)) (by rwa [hp])
    rwa [hp] at this

/-- `Fx65`'s loop changes `v` only. -/
theorem State.loadBlock_eq (n : Nat) : s.loadBlock n = { s with v := (s.loadBlock n).v } := by
  induction n with
  | zero => rfl
  | succ n ih => rw [State.loadBlock, ih]; rfl

/-! The loops of `Dxyn` change neither the state they read nor anything but the canvas, by their types. -/

/-- `Dxyn` changes `V[0xF]`, `graphics` and `draw_flag` only. -/
theorem State.drawSprite_eq (stale : Byte) (x y : Reg) (n : BitVec 4) :
    s.drawSprite stale x y n =
      { s.setReg vf ((s.drawSprite stale x y n).reg vf) with
        graphics := (s.drawSprite stale x y n).graphics, drawFlag := true } := by
  have : (s.drawSprite stale x y n).reg vf = flagByte
      (Canvas.drawRows { latch := stale, graphics := s.graphics, hit := false } s (startColumn (s.reg x))
        (startRow (s.reg y)) n.toNat).hit := State.reg_setReg_self s vf _
  rw [this]; rfl

end Sys2Proof.Machine
end

