-- ==== Sys2Proof/Laws/PerInstr.lean ====
section
/-!
SUPPORT. One lemma per instruction: its word satisfies its own row of the opcode map (30_encoding.md R98, R100).
-/

namespace Sys2Proof.Laws

/-- The word of an instruction is selected by the instruction's row. -/
def WordOfRow.Statement (i : Instr) : Prop := opcodeMap[i.row].selects (encode i) = true

/-- The high nibble of layout `NNN`. -/
theorem layoutNNN_and (op : BitVec 4) (nnn : BitVec 12) : layoutNNN op nnn &&& 0xF000 = op ++ 0#12 := by
  ext k hk
  simp only [layoutNNN, BitVec.getElem_and, BitVec.getElem_append]
  interval_cases k <;> simp

/-- The high nibble of layout `XNN`. -/
theorem layoutXNN_and (op : BitVec 4) (x : Reg) (nn : Byte) : layoutXNN op x nn &&& 0xF000 = op ++ 0#12 := by
  ext k hk
  simp only [layoutXNN, BitVec.getElem_and, BitVec.getElem_append]
  interval_cases k <;> simp

/-- The high nibble and the low byte of layout `XNN`. -/
theorem layoutXNN_and_minor (op : BitVec 4) (x : Reg) (nn : Byte) :
    layoutXNN op x nn &&& 0xF0FF = op ++ 0#4 ++ nn := by
  ext k hk
  simp only [layoutXNN, BitVec.getElem_and, BitVec.getElem_append]
  interval_cases k <;> simp

/-- The high nibble of layout `XYN`. -/
theorem layoutXYN_and (op : BitVec 4) (x y : Reg) (n : BitVec 4) : layoutXYN op x y n &&& 0xF000 = op ++ 0#12 := by
  ext k hk
  simp only [layoutXYN, BitVec.getElem_and, BitVec.getElem_append]
  interval_cases k <;> simp

/-- The high and the low nibble of layout `XYN`. -/
theorem layoutXYN_and_minor (op : BitVec 4) (x y : Reg) (n : BitVec 4) :
    layoutXYN op x y n &&& 0xF00F = op ++ 0#8 ++ n := by
  ext k hk
  simp only [layoutXYN, BitVec.getElem_and, BitVec.getElem_append]
  interval_cases k <;> simp

theorem WordOfRow.cls : WordOfRow.Statement (.cls) := rfl

theorem WordOfRow.ret : WordOfRow.Statement (.ret) := rfl

theorem WordOfRow.jp (nnn : BitVec 12) : WordOfRow.Statement (.jp nnn) := beq_of_eq ((layoutNNN_and ..).trans rfl)

theorem WordOfRow.call (nnn : BitVec 12) : WordOfRow.Statement (.call nnn) := beq_of_eq ((layoutNNN_and ..).trans rfl)

theorem WordOfRow.seImm (x : Reg) (nn : Byte) : WordOfRow.Statement (.seImm x nn) := beq_of_eq ((layoutXNN_and ..).trans rfl)

theorem WordOfRow.sneImm (x : Reg) (nn : Byte) : WordOfRow.Statement (.sneImm x nn) := beq_of_eq ((layoutXNN_and ..).trans rfl)

theorem WordOfRow.seReg (x : Reg) (y : Reg) : WordOfRow.Statement (.seReg x y) := beq_of_eq ((layoutXYN_and_minor ..).trans rfl)

theorem WordOfRow.ldImm (x : Reg) (nn : Byte) : WordOfRow.Statement (.ldImm x nn) := beq_of_eq ((layoutXNN_and ..).trans rfl)

theorem WordOfRow.addImm (x : Reg) (nn : Byte) : WordOfRow.Statement (.addImm x nn) := beq_of_eq ((layoutXNN_and ..).trans rfl)

theorem WordOfRow.ldReg (x : Reg) (y : Reg) : WordOfRow.Statement (.ldReg x y) := beq_of_eq ((layoutXYN_and_minor ..).trans rfl)

theorem WordOfRow.orReg (x : Reg) (y : Reg) : WordOfRow.Statement (.orReg x y) := beq_of_eq ((layoutXYN_and_minor ..).trans rfl)

theorem WordOfRow.andReg (x : Reg) (y : Reg) : WordOfRow.Statement (.andReg x y) := beq_of_eq ((layoutXYN_and_minor ..).trans rfl)

theorem WordOfRow.xorReg (x : Reg) (y : Reg) : WordOfRow.Statement (.xorReg x y) := beq_of_eq ((layoutXYN_and_minor ..).trans rfl)

theorem WordOfRow.addReg (x : Reg) (y : Reg) : WordOfRow.Statement (.addReg x y) := beq_of_eq ((layoutXYN_and_minor ..).trans rfl)

theorem WordOfRow.subReg (x : Reg) (y : Reg) : WordOfRow.Statement (.subReg x y) := beq_of_eq ((layoutXYN_and_minor ..).trans rfl)

theorem WordOfRow.shr (x : Reg) (y : Reg) : WordOfRow.Statement (.shr x y) := beq_of_eq ((layoutXYN_and_minor ..).trans rfl)

theorem WordOfRow.subnReg (x : Reg) (y : Reg) : WordOfRow.Statement (.subnReg x y) := beq_of_eq ((layoutXYN_and_minor ..).trans rfl)

theorem WordOfRow.shl (x : Reg) (y : Reg) : WordOfRow.Statement (.shl x y) := beq_of_eq ((layoutXYN_and_minor ..).trans rfl)

theorem WordOfRow.sneReg (x : Reg) (y : Reg) : WordOfRow.Statement (.sneReg x y) := beq_of_eq ((layoutXYN_and_minor ..).trans rfl)

theorem WordOfRow.ldI (nnn : BitVec 12) : WordOfRow.Statement (.ldI nnn) := beq_of_eq ((layoutNNN_and ..).trans rfl)

theorem WordOfRow.jpV0 (nnn : BitVec 12) : WordOfRow.Statement (.jpV0 nnn) := beq_of_eq ((layoutNNN_and ..).trans rfl)

theorem WordOfRow.rnd (x : Reg) (nn : Byte) : WordOfRow.Statement (.rnd x nn) := beq_of_eq ((layoutXNN_and ..).trans rfl)

theorem WordOfRow.drw (x : Reg) (y : Reg) (n : BitVec 4) : WordOfRow.Statement (.drw x y n) := beq_of_eq ((layoutXYN_and ..).trans rfl)

theorem WordOfRow.skp (x : Reg) : WordOfRow.Statement (.skp x) := beq_of_eq ((layoutXNN_and_minor ..).trans rfl)

theorem WordOfRow.sknp (x : Reg) : WordOfRow.Statement (.sknp x) := beq_of_eq ((layoutXNN_and_minor ..).trans rfl)

theorem WordOfRow.ldFromDelay (x : Reg) : WordOfRow.Statement (.ldFromDelay x) := beq_of_eq ((layoutXNN_and_minor ..).trans rfl)

theorem WordOfRow.ldKey (x : Reg) : WordOfRow.Statement (.ldKey x) := beq_of_eq ((layoutXNN_and_minor ..).trans rfl)

theorem WordOfRow.ldDelay (x : Reg) : WordOfRow.Statement (.ldDelay x) := beq_of_eq ((layoutXNN_and_minor ..).trans rfl)

theorem WordOfRow.ldSound (x : Reg) : WordOfRow.Statement (.ldSound x) := beq_of_eq ((layoutXNN_and_minor ..).trans rfl)

theorem WordOfRow.addI (x : Reg) : WordOfRow.Statement (.addI x) := beq_of_eq ((layoutXNN_and_minor ..).trans rfl)

theorem WordOfRow.ldFont (x : Reg) : WordOfRow.Statement (.ldFont x) := beq_of_eq ((layoutXNN_and_minor ..).trans rfl)

theorem WordOfRow.ldBcd (x : Reg) : WordOfRow.Statement (.ldBcd x) := beq_of_eq ((layoutXNN_and_minor ..).trans rfl)

theorem WordOfRow.storeRegs (x : Reg) : WordOfRow.Statement (.storeRegs x) := beq_of_eq ((layoutXNN_and_minor ..).trans rfl)

theorem WordOfRow.loadRegs (x : Reg) : WordOfRow.Statement (.loadRegs x) := beq_of_eq ((layoutXNN_and_minor ..).trans rfl)

end Sys2Proof.Laws
end

