-- ==== Sys2Proof/Tests/Slice0.lean ====
section
/-!
SUPPORT. Tests: expected results are those of 95_test_vectors.md (T and P numbers) or of the rule named, never the model's
own. Then one named witness for each statement that has hypotheses.
-/

namespace Sys2Proof.Machine.Tests

/-- `S0` of 95_test_vectors.md with the word `w` at 0x200, at an instruction step. -/
def s0 (w : Nat) : State := State.reset.withFetchWord 16 w

/-- The next state of a step, if it answers one. -/
def stepped (s : State) : Option State :=
  match step s with
  | .next t => some t
  | _ => none

/-- The next state of an instruction, if it answers one. -/
def executed (i : Instr) (s : State) : Option State :=
  match exec i s with
  | .next t => some t
  | _ => none

/-! ### Well-formedness: what each check refuses -/

theorem test_params_refused : Params.wf { defaultParams with burst := 0 } = false := by decide
theorem test_params_accepted : Params.wf defaultParams = true := by decide
/-- T162: an image of 3585 bytes is refused, T161: one of 3584 is not. -/
theorem test_image_refused : imageFits (List.replicate 3585 0) = false :=
  decide_eq_false (by rw [List.length_replicate]; decide)
theorem test_image_accepted : imageFits (List.replicate 3584 0) = true :=
  decide_eq_true (by rw [List.length_replicate])
/-- Not canonical: falling addresses; an address past the end; a byte equal to the reset contents. -/
theorem test_memory_order_refused : Memory.wf defaultFont [(0x301, 1), (0x300, 1)] = false := by decide
theorem test_memory_range_refused : Memory.wf defaultFont [(4096, 1)] = false := by decide
theorem test_memory_default_refused : Memory.wf defaultFont [(0, 0xF0)] = false := by decide
theorem test_memory_accepted : Memory.wf defaultFont [(0, 0), (0xFFF, 1)] = true := by decide

/-! ### Decoding: words written out bit by bit from the patterns of R100 -/

theorem test_decode_control :
    decode 0b0000000011101110#16 = .ok .ret ∧ decode 0b0001101010111100#16 = .ok (.jp 0xABC) ∧
    decode 0b0010001100000001#16 = .ok (.call 0x301) ∧ decode 0b0011101001000010#16 = .ok (.seImm 10 0x42) ∧
    decode 0b0100101001000010#16 = .ok (.sneImm 10 0x42) ∧ decode 0b0101000100100000#16 = .ok (.seReg 1 2) ∧
    decode 0b1001000100100000#16 = .ok (.sneReg 1 2) ∧ decode 0b1011111111110001#16 = .ok (.jpV0 0xFF1) := by
  refine ⟨rfl, rfl, rfl, rfl, rfl, rfl, rfl, rfl⟩

theorem test_decode_alu :
    decode 0b0110111100010010#16 = .ok (.ldImm 15 0x12) ∧ decode 0b0111000000000011#16 = .ok (.addImm 0 3) ∧
    decode 0b1000000100100000#16 = .ok (.ldReg 1 2) ∧ decode 0b1000000100100001#16 = .ok (.orReg 1 2) ∧
    decode 0b1000000100100010#16 = .ok (.andReg 1 2) ∧ decode 0b1000000100100011#16 = .ok (.xorReg 1 2) ∧
    decode 0b1000000100100100#16 = .ok (.addReg 1 2) ∧ decode 0b1000000100100101#16 = .ok (.subReg 1 2) ∧
    decode 0b1000000100100110#16 = .ok (.shr 1 2) ∧ decode 0b1000000100100111#16 = .ok (.subnReg 1 2) ∧
    decode 0b1000000100101110#16 = .ok (.shl 1 2) ∧ decode 0b1100001100001111#16 = .ok (.rnd 3 0x0F) := by
  refine ⟨rfl, rfl, rfl, rfl, rfl, rfl, rfl, rfl, rfl, rfl, rfl, rfl⟩

theorem test_decode_index_display :
    decode 0b1010001100000000#16 = .ok (.ldI 0x300) ∧ decode 0b1111001000011110#16 = .ok (.addI 2) ∧
    decode 0b1111000000101001#16 = .ok (.ldFont 0) ∧ decode 0b1111000000110011#16 = .ok (.ldBcd 0) ∧
    decode 0b1111001001010101#16 = .ok (.storeRegs 2) ∧ decode 0b1111001001100101#16 = .ok (.loadRegs 2) ∧
    decode 0b0000000011100000#16 = .ok .cls ∧ decode 0b1101000100100101#16 = .ok (.drw 1 2 5) := by
  refine ⟨rfl, rfl, rfl, rfl, rfl, rfl, rfl, rfl⟩

theorem test_decode_keypad_timers :
    decode 0b1110010010011110#16 = .ok (.skp 4) ∧ decode 0b1110010010100001#16 = .ok (.sknp 4) ∧
    decode 0b1111000100000111#16 = .ok (.ldFromDelay 1) ∧ decode 0b1111001100001010#16 = .ok (.ldKey 3) ∧
    decode 0b1111000000010101#16 = .ok (.ldDelay 0) ∧ decode 0b1111001100011000#16 = .ok (.ldSound 3) := by
  refine ⟨rfl, rfl, rfl, rfl, rfl, rfl⟩

/-- T21 to T28: words of the six undefined spaces. -/
theorem test_decode_undefined :
    decode 0x0000 = .error .zeroNnn ∧ decode 0x00E1 = .error .zeroNnn ∧ decode 0x5121 = .error .fiveXyN ∧
    decode 0x9121 = .error .nineXyN ∧ decode 0x8128 = .error .eightXyN ∧ decode 0xE19F = .error .eXNN ∧
    decode 0xF1FF = .error .fXNN ∧ decode 0xF000 = .error .fXNN := by
  refine ⟨rfl, rfl, rfl, rfl, rfl, rfl, rfl, rfl⟩

theorem test_decodeTableWord :
    decodeTableWord 16 0x8124 = some (.addReg 1 2) ∧ decodeTableWord 16 0x0000 = none := ⟨rfl, rfl⟩

/-! ### The step: fetch, advance, undefined words (T21, T140, T141, T145) -/

/-- R283, R263: from reset the host requests a cycle; a host that does not leaves the core as it is. -/
theorem test_first_step_is_request : (stepped State.reset).map (·.phase) = some .flagReset := by decide

theorem test_idle_step :
    (let s := { s0 0x6F12 with phase := .idle, hostCycles := false }
     stepped s = some s) := by decide

/-- R230, R238: a request in the middle of a cycle is held, one in a core that stands still starts phase A. -/
theorem test_request_held :
    (stepped { s0 0x6F12 with hostPlan := [⟨0, .cycle⟩] }).map (fun t => (t.reg 15, t.hostPlan)) =
      some (0x12, [⟨0, .cycle⟩]) := by decide

theorem test_request :
    (stepped { State.reset with phase := .idle, hostCycles := false, hostPlan := [⟨0, .cycle⟩] }).map
      (fun t => (t.phase, t.hostPlan)) = some (.flagReset, []) := by decide

theorem test_undefined_noop :
    (stepped (s0 0x0123)).map (fun t => (t.pc, t.opcode, t.sp, t.halt)) = some (0x202, 0x0123, 0, .running) := by decide

theorem test_stale_opcode :
    (stepped { s0 0 with pc := 0xFFF, opcode := 0x7001 }).map (fun t => (t.reg 0, t.pc, t.opcode)) =
      some (1, 0x1001, 0x7001) := by decide

theorem test_pc_wraps :
    (stepped { s0 0 with pc := 0xFFFE, opcode := 0x7001 }).map (fun t => (t.reg 0, t.pc)) = some (1, 0) := by decide

theorem test_odd_pc :
    (stepped { s0 0 with pc := 0x201, mem := [(0x201, 0x60), (0x202, 0x07)] }).map
      (fun t => (t.opcode, t.reg 0, t.pc)) = some (0x6007, 7, 0x203) := by decide

/-! ### Control flow (T1 to T19) -/

theorem test_ret :
    (stepped { s0 0x00EE with sp := 2, stack := (State.reset.stack.set 1 0x20A).set 2 0x345 }).map
      (fun t => (t.pc, t.sp, t.stack[2])) = some (0x345, 1, 0x345) := by decide

theorem test_ret_underflow :
    (stepped (s0 0x00EE)).map (fun t => (t.pc, t.sp, t.opcode, t.halt)) =
      some (0x202, 0, 0x00EE, .faulted .stackUnderflow) := by decide

theorem test_jp_odd : (stepped (s0 0x1201)).map (·.pc) = some 0x201 := by decide

theorem test_call :
    (stepped { s0 0x2ABC with sp := 14 }).map (fun t => (t.sp, t.stack[15], t.pc)) = some (15, 0x202, 0xABC) := by decide

theorem test_call_overflow :
    (stepped { s0 0x2ABC with sp := 15 }).map (fun t => (t.pc, t.sp, t.stack[15], t.halt)) =
      some (0x202, 15, 0, .faulted .stackOverflow) := by decide

theorem test_seImm_taken : (stepped ((s0 0x3A42).setReg 10 0x42)).map (·.pc) = some 0x204 := by decide
theorem test_seImm_not : (stepped ((s0 0x3A42).setReg 10 0x43)).map (·.pc) = some 0x202 := by decide
theorem test_sneImm_taken : (stepped ((s0 0x4A42).setReg 10 0x43)).map (·.pc) = some 0x204 := by decide
theorem test_sneImm_not : (stepped ((s0 0x4A42).setReg 10 0x42)).map (·.pc) = some 0x202 := by decide
theorem test_seReg_taken : (stepped (((s0 0x5120).setReg 1 7).setReg 2 7)).map (·.pc) = some 0x204 := by decide
theorem test_seReg_not : (stepped (((s0 0x5120).setReg 1 7).setReg 2 8)).map (·.pc) = some 0x202 := by decide
theorem test_sneReg_taken : (stepped (((s0 0x9120).setReg 1 7).setReg 2 8)).map (·.pc) = some 0x204 := by decide
theorem test_sneReg_not : (stepped (((s0 0x9120).setReg 1 7).setReg 2 7)).map (·.pc) = some 0x202 := by decide
theorem test_jpV0_past_memory : (stepped ((s0 0xBFFF).setReg 0 0xFF)).map (·.pc) = some 0x10FE := by decide
theorem test_jpV0_odd : (stepped ((s0 0xB201).setReg 0 2)).map (·.pc) = some 0x203 := by decide

/-! ### Registers and arithmetic (T30 to T66) -/

theorem test_ldImm_vf : (stepped (s0 0x6F12)).map (·.reg 15) = some 0x12 := by decide

theorem test_addImm_wraps :
    (stepped (((s0 0x7003).setReg 0 0xFE).setReg 15 0x55)).map (fun t => (t.reg 0, t.reg 15)) = some (1, 0x55) := by decide

theorem test_ldReg : (stepped ((s0 0x8120).setReg 2 0x37)).map (fun t => (t.reg 1, t.reg 2)) = some (0x37, 0x37) := by decide

theorem test_or_y_is_vf :
    (stepped (((s0 0x81F1).setReg 1 0x10).setReg 15 1)).map (fun t => (t.reg 1, t.reg 15)) = some (0x11, 0) := by decide

theorem test_or_x_is_vf : (stepped (((s0 0x8F21).setReg 15 0xF0).setReg 2 0x0F)).map (·.reg 15) = some 0 := by decide

theorem test_and :
    (stepped ((((s0 0x8122).setReg 1 0xF3).setReg 2 0x3F).setReg 15 1)).map (fun t => (t.reg 1, t.reg 15)) =
      some (0x33, 0) := by decide

theorem test_xor_same :
    (stepped (((s0 0x8113).setReg 1 0xAA).setReg 15 1)).map (fun t => (t.reg 1, t.reg 15)) = some (0, 0) := by decide

theorem test_xor :
    (stepped (((s0 0x8123).setReg 1 0xFF).setReg 2 0x0F)).map (fun t => (t.reg 1, t.reg 2)) = some (0xF0, 0x0F) := by decide

theorem test_add_carry :
    (stepped (((s0 0x8124).setReg 1 0xFF).setReg 2 1)).map (fun t => (t.reg 1, t.reg 15)) = some (0, 1) := by decide

theorem test_add_x_is_vf : (stepped (((s0 0x8F14).setReg 15 0xF0).setReg 1 0x20)).map (·.reg 15) = some 1 := by decide

theorem test_sub_equal :
    (stepped (((s0 0x8125).setReg 1 7).setReg 2 7)).map (fun t => (t.reg 1, t.reg 15)) = some (0, 1) := by decide

theorem test_sub_borrow :
    (stepped (((s0 0x8125).setReg 1 5).setReg 2 0xA)).map (fun t => (t.reg 1, t.reg 15)) = some (0xFB, 0) := by decide

theorem test_shr_reads_y :
    (stepped (((s0 0x8126).setReg 1 0xFF).setReg 2 3)).map (fun t => (t.reg 1, t.reg 2, t.reg 15)) =
      some (1, 3, 1) := by decide

theorem test_shr_x_is_vf : (stepped ((s0 0x8F26).setReg 2 0xFF)).map (·.reg 15) = some 0 := by decide

theorem test_subn :
    (stepped (((s0 0x8127).setReg 1 5).setReg 2 0xA)).map (fun t => (t.reg 1, t.reg 15)) = some (5, 1) := by decide

theorem test_subn_x_is_vf : (stepped (((s0 0x8F17).setReg 15 3).setReg 1 5)).map (·.reg 15) = some 1 := by decide

theorem test_shl_reads_y :
    (stepped (((s0 0x812E).setReg 1 0xFF).setReg 2 0x81)).map (fun t => (t.reg 1, t.reg 15)) = some (2, 1) := by decide

theorem test_shl_x_is_vf : (stepped ((s0 0x8F2E).setReg 2 0x80)).map (·.reg 15) = some 2 := by decide

/-- T64, on the mask itself: the draw is a free value. -/
theorem test_rnd_mask : maskedDraw 0xA7 0x0F = 0x07 := by decide

/-- T65: with the mask 0 the result is 0 whatever the draw is. -/
theorem test_rnd_zero_mask (rnd : Byte) : maskedDraw rnd 0 = 0 := by simp [maskedDraw]

/-! ### Index register and memory (T70 to T91) -/

theorem test_ldI : (stepped { s0 0xAFFF with i := 0x1234 }).map (·.i) = some 0xFFF := by decide

theorem test_addI_no_mask :
    (stepped { (((s0 0xF21E).setReg 2 1).setReg 15 7) with i := 0xFFF }).map (fun t => (t.i, t.reg 15)) =
      some (0x1000, 7) := by decide

theorem test_addI_wraps : (stepped { (s0 0xF21E).setReg 2 1 with i := 0xFFFF }).map (·.i) = some 0 := by decide

theorem test_ldFont_low_nibble : (stepped ((s0 0xF029).setReg 0 0x1A)).map (·.i) = some 0x32 := by decide

theorem test_bcd :
    (stepped { (s0 0xF033).setReg 0 254 with i := 0x300 }).map
      (fun t => (t.load? 0x300, t.load? 0x301, t.load? 0x302, t.i)) = some (some 2, some 5, some 4, 0x300) := by decide

theorem test_bcd_edge :
    (stepped { (s0 0xF033).setReg 0 255 with i := 0xFFE }).map
      (fun t => (t.load? 0xFFE, t.load? 0xFFF, t.load? 0x1000)) = some (some 2, some 5, none) := by decide

theorem test_store_block :
    (stepped { (((s0 0xF255).setReg 0 0x11).setReg 1 0x22).setReg 2 0x33 with i := 0x400 }).map
      (fun t => (t.load? 0x400, t.load? 0x401, t.load? 0x402, t.load? 0x403, t.i)) =
      some (some 0x11, some 0x22, some 0x33, some 0, 0x403) := by decide

/-- T87: `I + 1` is 65536, out of range, not address 0. -/
theorem test_store_block_no_wrap :
    (stepped { ((s0 0xF155).setReg 0 1).setReg 1 2 with i := 0xFFFF }).map (fun t => (t.load? 0, t.i)) =
      some (some 0xF0, 1) := by decide

theorem test_load_block_edge :
    (stepped { ((s0 0xF365).setReg 2 0x55).setReg 3 0x66 with i := 0xFFE, mem := [(0x200, 0xF3), (0x201, 0x65), (0xFFE, 0xAB), (0xFFF, 0xCD)] }).map
      (fun t => (t.reg 0, t.reg 1, t.reg 2, t.reg 3, t.i)) = some (0xAB, 0xCD, 0, 0, 0x1002) := by decide

/-- T91: the default font is loaded, `V[0xF]` included. -/
theorem test_load_block_font :
    (stepped (s0 0xFF65)).map (fun t => (t.reg 0, t.reg 5, t.reg 14, t.reg 15, t.i)) =
      some (0xF0, 0x20, 0xF0, 0xF0, 0x10) := by decide

/-! ### Display (T100 to T113) -/

/-- The numbers of the lit cells among the first `n`, rising. -/
def litBelow (g : Screen) (n : Nat) : List Nat := (List.range n).filter g.cell

/-- A framebuffer with the listed cells lit. -/
def litScreen (cells : List (Nat × Fin 32)) : Screen := cells.foldl (fun g c => g.flip c.1 c.2) State.reset.graphics

theorem test_cls :
    (stepped { s0 0x00E0 with graphics := litScreen [(0, 0), (5, 0), (63, 31)] }).map (fun t => (t.graphics, t.drawFlag)) =
      some (Vector.replicate 32 0, true) := by decide

/-- T102: glyph 0 at the corner; the cells of its first two rows. -/
theorem test_drw_glyph :
    (stepped (s0 0xD005)).map (fun t => (litBelow t.graphics 80, t.reg 15, t.drawFlag)) =
      some ([0, 1, 2, 3, 64, 67], 0, true) := by decide

/-- T107: glyph 3 clipped at the corner, over itself: cells 1982 and 1983 go out. -/
theorem test_drw_collision :
    (stepped { ((s0 0xD125).setReg 1 62).setReg 2 30 with i := 15, graphics := litScreen [(62, 30), (63, 30)] }).map
      (fun t => (t.graphics, t.reg 15)) = some (Vector.replicate 32 0, 1) := by decide

/-- T109: the row past the end of memory keeps the latch: cells 0, 65, 129. -/
theorem test_drawSprite_latch :
    (State.drawSprite { State.reset with i := 0xFFE, mem := [(0xFFE, 0x80), (0xFFF, 0x40)] } 0xFF 1 2 3).graphics =
      litScreen [(0, 0), (1, 1), (1, 2)] := by decide +kernel

/-- T110: with no row in range every row uses `stale`: cells 0, 1, 64, 65. -/
theorem test_drawSprite_stale :
    (State.drawSprite { State.reset with i := 0x1000 } 0xC0 1 2 2).graphics =
      litScreen [(0, 0), (1, 0), (0, 1), (1, 1)] := by decide +kernel

/-- T104: the start coordinate wraps to (5, 2): cells 133 and 140. -/
theorem test_drawSprite_start_wraps :
    (State.drawSprite { (State.reset.setReg 1 69).setReg 2 34 with i := 0x300, mem := [(0x300, 0x81)] } 0 1 2 1).graphics =
      litScreen [(5, 2), (12, 2)] := by decide

/-! ### Keypad and timers (T120 to T134) -/

theorem test_skp_low_nibble :
    (stepped { (s0 0xE49E).setReg 4 0x17 with keypad := State.reset.keypad.set 7 true }).map (·.pc) = some 0x204 := by decide

theorem test_skp_up : (stepped ((s0 0xE49E).setReg 4 7)).map (·.pc) = some 0x202 := by decide

theorem test_sknp_down :
    (stepped { (s0 0xE4A1).setReg 4 7 with keypad := State.reset.keypad.set 7 true }).map (·.pc) = some 0x202 := by decide

theorem test_sknp_up : (stepped ((s0 0xE4A1).setReg 4 7)).map (·.pc) = some 0x204 := by decide

/-- T129: key 3 is still held, so the lowest released key is 9. -/
theorem test_ldKey_lowest :
    (stepped { s0 0xF30A with
      prevKeypad := ((State.reset.prevKeypad.set 3 true).set 9 true).set 12 true
      keypad := State.reset.keypad.set 3 true }).map (fun t => (t.reg 3, t.pc)) = some (9, 0x202) := by decide

theorem test_ldKey_held :
    (stepped { s0 0xF00A with prevKeypad := State.reset.prevKeypad.set 7 true, keypad := State.reset.keypad.set 7 true }).map
      (fun t => (t.reg 0, t.pc)) = some (0, 0x200) := by decide

theorem test_ldFromDelay : (stepped { s0 0xF107 with delayTimer := 7 }).map (·.reg 1) = some 7 := by decide
theorem test_ldDelay : (stepped ((s0 0xF015).setReg 0 7)).map (·.delayTimer) = some 7 := by decide
theorem test_ldSound : (stepped ((s0 0xF318).setReg 3 2)).map (fun t => (t.soundTimer, t.soundFlag)) = some (2, false) := by decide

/-! ### Phases and host operations (T150, T160, T164) -/

theorem test_phaseC :
    (stepped { State.reset with phase := .timers, delayTimer := 5, soundTimer := 1 }).map
      (fun t => (t.delayTimer, t.soundTimer, t.soundFlag)) = some (4, 0, true) := by decide

theorem test_phaseC_stops_at_zero :
    (stepped { State.reset with phase := .timers }).map (fun t => (t.delayTimer, t.soundTimer, t.soundFlag)) =
      some (0, 0, false) := by decide

theorem test_phaseD :
    (stepped { State.reset with phase := .snapshot, keypad := State.reset.keypad.set 3 true }).map
      (fun t => (t.prevKeypad[3], t.phase)) = some (true, .idle) := by decide

/-- R242, R252: `opcode` is observed between cycles and in a faulted core, and nothing inside a cycle (R238). -/
theorem test_observe :
    (hostObserve { State.reset with phase := .idle, opcode := 0x1234 }).map (fun o => (o.opcode, o.pc, o.halt)) =
      some (0x1234, 0x200, .running) ∧
    (hostObserve { s0 0 with halt := .faulted .stackOverflow, sp := 15 }).map (·.sp) = some 15 ∧
    hostObserve (s0 0) = none := ⟨rfl, rfl, rfl⟩

/-- Reset inside a cycle drops the rest of the cycle (log 16). -/
theorem test_reset_inside_cycle :
    (stepped { s0 0 with hostPlan := [⟨0, .reset⟩] }).map (fun t => (t.phase, t.pc, t.hostPlan)) =
      some (.boot, 0x200, []) := by decide

theorem test_load :
    (stepped { State.reset with hostPlan := [⟨0, .load [0x12, 0x00]⟩] }).map
      (fun t => (t.load? 0x200, t.load? 0x201, t.pc, t.hostPlan)) = some (some 0x12, some 0, 0x200, []) := by decide

theorem test_reset_clears_fault :
    (stepped { s0 0 with halt := .faulted .stackOverflow, sp := 15, hostPlan := [⟨5, .reset⟩] }).map
      (fun t => (t.halt, t.sp, t.pc, t.phase)) = some (.running, 0, 0x200, .boot) := by decide

/-! ### Witnesses: a state and operands that meet each statement's hypotheses, clause by clause -/

theorem witness_StepRunsDecodedInstruction :
    let s := s0 0x6F12
    hostTurn s = none ∧ s.halt = .running ∧ s.phase = .burst 0 ∧ decode s.fetched = .ok (.ldImm 15 0x12) := by decide

theorem witness_StepUndefinedIsNoop :
    let s := s0 0x0123
    hostTurn s = none ∧ s.halt = .running ∧ s.phase = .burst 0 ∧ decode s.fetched = .error .zeroNnn := by decide

theorem witness_PlacedWordRunsNext : decode 0x8124 = .ok (.addReg 1 2) := rfl

theorem witness_EncodeOfDecode : decode 0xD12F = .ok (.drw 1 2 15) := rfl

theorem witness_OpcodeMapExclusive : opcodeMap[(0 : Fin 34)].selects 0x00E0 = true := by decide

/-- Both clauses, where they meet: `pc` 4094 and 4095. -/
theorem witness_FetchIsGuardedBigEndian :
    { s0 0 with pc := 0xFFE }.pc.toNat + 1 < 4096 ∧ 4096 ≤ { s0 0 with pc := 0xFFF }.pc.toNat + 1 := by decide

theorem witness_UndefinedSpaces :
    opField 0x8128 = 0x8 ∧ nField 0x8128 ∈ [(0x8 : BitVec 4), 0x9, 0xA, 0xB, 0xC, 0xD, 0xF] ∧ opField 0x5121 = 0x5 ∧
    nField 0x5121 ≠ 0 ∧ opField 0xE19F = 0xE ∧ nnField 0xE19F ∉ [(0x9E : Byte), 0xA1] := by decide

/-- Both clauses, where they meet: `sp` 1 and 0. -/
theorem witness_ReturnPopsTheStack :
    { State.reset with sp := 1 }.sp ≠ 0 ∧ State.reset.sp = 0 := by decide

/-- Both clauses, where they meet: `sp` 14 and 15; and the word's hypothesis. -/
theorem witness_CallPushesAndJumps :
    { State.reset with sp := 14 }.sp ≠ 15 ∧ { State.reset with sp := 15 }.sp = 15 ∧ opField 0x2FFF = 0x2 := by decide

theorem witness_CallThenReturn : { State.reset with sp := 14 }.sp ≠ 15 := by decide

/-- The words of the decoding clauses of control flow. -/
theorem witness_control_words :
    opField 0x1FFF = 0x1 ∧ opField 0x3AFF = 0x3 ∧ opField 0x4AFF = 0x4 ∧ opField 0x5FF0 = 0x5 ∧ opField 0x9FFF = 0x9 ∧
    opField 0xBFFF = 0xB := by decide

/-- The words of the decoding clauses of the arithmetic. -/
theorem witness_alu_words :
    opField 0x6FFF = 0x6 ∧ opField 0x7FFF = 0x7 ∧ opField 0xCFFF = 0xC ∧
    (∀ n ∈ [(0 : BitVec 4), 1, 2, 3, 4, 5, 6, 7, 0xE], opField (0x8FF#12 ++ n) = 0x8 ∧ nField (0x8FF#12 ++ n) = n) := by
  decide

/-- The words of the decoding clauses of index, memory, display, keypad and timers. -/
theorem witness_other_words :
    opField 0xAFFF = 0xA ∧ opField 0xDFFF = 0xD ∧
    (∀ nn ∈ [(0x9E : Byte), 0xA1], opField (0xEF#8 ++ nn) = 0xE ∧ nnField (0xEF#8 ++ nn) = nn) ∧
    (∀ nn ∈ [(0x07 : Byte), 0x0A, 0x15, 0x18, 0x1E, 0x29, 0x33, 0x55, 0x65],
      opField (0xFF#8 ++ nn) = 0xF ∧ nnField (0xFF#8 ++ nn) = nn) := by decide

/-- The clauses `x ≠ vf` and `x = vf` of the flag writers. -/
theorem witness_flag_destination : (14 : Reg) ≠ vf ∧ (15 : Reg) = vf := by decide

/-- Digits at the end of memory: elements 0 and 1 are in range, element 2 is not; 0x1000 and 0 are none of them. -/
theorem witness_StoreDecimalDigits :
    let s := { s0 0 with i := 0xFFE }
    s.element 0 < 4096 ∧ s.element 1 < 4096 ∧ ¬ s.element 2 < 4096 ∧ 0 ≠ s.element 0 ∧ 0 ≠ s.element 1 ∧ 0 ≠ s.element 2 := by
  decide

theorem witness_StoreDecimalDigits_third : { s0 0 with i := 0xFFD }.element 2 < 4096 := by decide

/-- A block that ends past memory: register 1 lands, register 2 does not, address 0 is none of the block's. -/
theorem witness_StoreRegisterBlock :
    let s := { s0 0 with i := 0xFFE }
    ((1 : Reg) ≤ 15 ∧ s.element 1 < 4096) ∧ ¬ s.element 2 < 4096 ∧ ∀ r : Reg, r ≤ 15 → 0 ≠ s.element r.val := by decide

/-- Registers up to `x`, in range and not, and one above it. -/
theorem witness_LoadRegisterBlock :
    let s := { s0 0 with i := 0xFFE }
    (1 : Reg) ≤ 2 ∧ s.element 1 < 4096 ∧ ¬ s.element 2 < 4096 ∧ (2 : Reg) < 3 := by decide

theorem witness_StoreThenLoadRoundTrip :
    let s := { (s0 0).setReg 0 0x11 with i := 0xFFF }
    ∃ t, exec (.storeRegs 1) s = .next t ∧ { t with i := s.i }.mem = t.mem ∧ { t with i := s.i }.params = t.params ∧
      { t with i := s.i }.i = s.i ∧ (0 : Reg) ≤ 1 := ⟨_, rfl, rfl, rfl, rfl, by decide⟩

/-- Glyph 0 at the corner toggles cell 0: lit, a collision; dark, none lit among those toggled. -/
theorem witness_DrawSpriteClosedForm :
    (∃ k, Toggles (s0 0) 0 1 2 1 k ∧ { s0 0 with graphics := litScreen [(0, 0)] }.graphics.cell k = true) ∧
    (∀ k, Toggles (s0 0) 0 1 2 1 k → (s0 0).graphics.cell k = false) ∧ (∃ k < 2048, ¬ Toggles (s0 0) 0 1 2 1 k) := by
  refine ⟨⟨0, ⟨0, 0, by decide⟩, by decide⟩, ?_, ⟨2047, by decide, ?_⟩⟩
  · rintro k ⟨row, col, hr, _, hc, hx, _, rfl⟩
    obtain rfl : row = 0 := by simpa using hr
    interval_cases col <;> decide
  · rintro ⟨row, col, hr, _, hc, _, _, hk⟩
    obtain rfl : row = 0 := by simpa using hr
    interval_cases col <;> exact absurd hk (by decide)

/-- Glyph 0 at the corner: registers that are not `V[0xF]`, `I` in range, a toggled cell, none lit before. -/
theorem witness_DrawTwiceRestores :
    (1 : Reg) ≠ vf ∧ (2 : Reg) ≠ vf ∧ { s0 0 with i := 0xFFF }.i.toNat < 4096 ∧ (s0 0).i.toNat < 4096 ∧
    (∃ k, Toggles (s0 0) 0 1 2 1 k) ∧ (∀ k, Toggles (s0 0) 0 1 2 1 k → (s0 0).graphics.cell k = false) :=
  ⟨by decide, by decide, by decide, by decide, ⟨0, 0, 0, by decide⟩, witness_DrawSpriteClosedForm.2.1⟩

theorem witness_SkipOnKey : (15 : Key).val = (((s0 0).setReg 4 0xFF).reg 4).toNat % 16 := by decide

/-- Both clauses: key 15 released and no lower one; no key released, one still held. -/
theorem witness_WaitForKeyRelease :
    (let s := { State.reset with prevKeypad := (State.reset.prevKeypad.set 3 true).set 15 true, keypad := State.reset.keypad.set 3 true }
     s.prevKey 15 = true ∧ s.key 15 = false ∧ ∀ j : Key, j < 15 → ¬ (s.prevKey j = true ∧ s.key j = false)) ∧
    (let s := { State.reset with prevKeypad := State.reset.prevKeypad.set 3 true, keypad := State.reset.keypad.set 3 true }
     ∀ k : Key, ¬ (s.prevKey k = true ∧ s.key k = false)) := by decide

theorem witness_PhaseAClearsFlags :
    let s := { State.reset with drawFlag := true, phase := .flagReset }
    hostTurn s = none ∧ s.halt = .running ∧ s.phase = .flagReset := by decide

/-- Both clauses: the sound timer at 1 and at 0. -/
theorem witness_PhaseCTicksTimers :
    let s := { State.reset with phase := .timers, soundTimer := 1 }
    hostTurn s = none ∧ s.halt = .running ∧ s.phase = .timers ∧ 0 < s.soundTimer.toNat ∧
      { s with soundTimer := 0 }.soundTimer.toNat = 0 := by decide

theorem witness_PhaseDSnapshotsKeys :
    let s := { State.reset with phase := .snapshot, keypad := State.reset.keypad.set 3 true }
    hostTurn s = none ∧ s.halt = .running ∧ s.phase = .snapshot := by decide

/-- A burst of 1, from reset: the burst completes (`6F12`), or it faults (`00EE`); and a faulted core. -/
theorem witness_CycleIsItsPhases :
    (let s := { s0 0x6F12 with phase := .idle, params := { defaultParams with burst := 1 } }
     s.params.wf = true ∧ s.halt = .running ∧ s.phase.standsStill = true ∧ (engineSteps 1 (phaseA s)).halt = .running) ∧
    (let s := { s0 0x00EE with phase := .idle, params := { defaultParams with burst := 1 } }
     s.params.wf = true ∧ s.halt = .running ∧ s.phase.standsStill = true ∧ (engineSteps 1 (phaseA s)).halt ≠ .running) ∧
    { State.reset with halt := .faulted .stackOverflow }.halt ≠ .running := by decide

theorem witness_NoDrawFlagNoDrawing :
    let s := { s0 0x6F12 with phase := .idle, params := { defaultParams with burst := 1 }, drawFlag := true }
    s.halt = .running ∧ s.phase.standsStill = true ∧ s.params.wf = true ∧ (cycle s).drawFlag = false := by
  decide

theorem witness_JumpToSelfIdles :
    let s := { s0 0x1200 with phase := .idle }
    s.halt = .running ∧ s.phase.standsStill = true ∧ s.params.wf = true ∧
      decode s.fetched = .ok (.jp 0x200) ∧ s.pc.toNat = (0x200#12).toNat := by decide

theorem witness_FaultEntryIsPrecise :
    (let s := s0 0x00EE
     hostTurn s = none ∧ s.halt = .running ∧ s.phase = .burst 0 ∧ decode s.fetched = .ok .ret ∧ s.sp = 0) ∧
    (let s := { s0 0x2ABC with sp := 15 }
     hostTurn s = none ∧ s.halt = .running ∧ s.phase = .burst 0 ∧ decode s.fetched = .ok (.call 0xABC) ∧ s.sp = 15) := by
  decide

/-- A faulted state that meets the invariant. -/
def faultedState : State := { State.reset with opcode := 0x00EE, pc := 0x202, halt := .faulted .stackUnderflow, phase := .burst 1 }

theorem witness_faulted_inv : Inv faultedState where
  memory := rfl
  params := rfl
  position := by rintro k ⟨⟩; decide
  bottomSlot := rfl
  underflow := by decide
  overflow := by decide
  faultInRun := by decide

/-- Both clauses: no host operation to come, and one. -/
theorem witness_FaultedUntilReset :
    Inv faultedState ∧ faultedState.halt = .faulted .stackUnderflow ∧ faultedState.hostPlan = [] ∧
      ∃ t, step { faultedState with hostPlan := [⟨5, .keyDown 3⟩] } = .next t :=
  ⟨witness_faulted_inv, rfl, rfl, _, rfl⟩

theorem witness_StopsOnlyWhenFaulted :
    step faultedState = .fault .stackUnderflow ∧
      step { State.reset with phase := .flagReset, hostPlan := [⟨0, .load []⟩] } = .refused .loadDuringRun := ⟨rfl, rfl⟩

/-- The last image that fits and the first that does not. -/
theorem witness_LoadWritesTheImage :
    State.reset.phase = .boot ∧ (List.replicate 3584 (0 : Byte)).length ≤ 3584 ∧
      3584 < (List.replicate 3585 (0 : Byte)).length := by
  refine ⟨rfl, ?_, ?_⟩
  · rw [List.length_replicate]
  · rw [List.length_replicate]; decide

theorem witness_KeyEventsWriteOneEntry : (0 : Key) ≠ 15 := by decide

/-- Each clause: a wait that is over (a `Cycle` in a core that stands still); inside a cycle, an operation that waits
and a `Cycle` that is held; in a core that stands still, an operation that waits. -/
theorem witness_HostActsBetweenActions :
    (⟨0, .cycle⟩ : HostEvent).wait = 0 ∧ State.reset.phase.standsStill = true ∧ State.reset.halt = .running ∧
    0 < (⟨1, .keyDown 3⟩ : HostEvent).wait ∧ (⟨0, .cycle⟩ : HostEvent).op = .cycle ∧ (s0 0).phase.standsStill = false ∧
    (s0 0).halt = .running := by decide

/-- Each clause: a core that stands still with no request and an operation that waits, one with the host's request, one
with a planned request, a faulted one with a planned request. -/
theorem witness_CycleOnlyOnRequest :
    (let s := { State.reset with hostCycles := false, hostPlan := [⟨1, .reset⟩] }
     s.halt = .running ∧ s.phase.standsStill = true ∧ hostTurn s = none) ∧
    State.reset.halt = .running ∧ hostTurn State.reset = some (.cycle, State.reset) ∧
    (let s := { faultedState with hostPlan := [⟨0, .cycle⟩] }
     s.halt ≠ .running ∧ hostTurn s = some (.cycle, faultedState) ∧ s.params.wf = true) ∧
    { State.reset with hostPlan := [⟨0, .cycle⟩] }.phase.standsStill = true := by decide

/-- For each component of the matrix, an instruction that changes it. -/
theorem witness_AccessMatrix :
    (executed (.ldBcd 0) { s0 0 with i := 0x300, v := State.reset.v.set 0 9 }).map (fun t => decide (t.mem ≠ (s0 0).mem)) = some true ∧
    (executed .cls (s0 0)).map (·.drawFlag) = some true ∧ (executed (.ldI 1) (s0 0)).map (·.i) = some 1 ∧
    (executed (.rnd 0 0) (s0 0)).map (·.draws) = some 1 ∧
    (executed (.call 1) (s0 0)).map (fun t => (t.sp, t.stack[1], t.pc)) = some (1, 0x200, 1) ∧
    (executed (.ldDelay 0) ((s0 0).setReg 0 9)).map (·.delayTimer) = some 9 ∧
    (executed (.ldSound 0) ((s0 0).setReg 0 9)).map (·.soundTimer) = some 9 := by decide

theorem witness_FlagRegisterWriters :
    (executed (.addReg 0 0) ((s0 0).setReg 0 0x80)).map (fun t => decide (t.reg vf ≠ ((s0 0).setReg 0 0x80).reg vf)) = some true := by
  decide

/-- Two states that differ in all three outputs. -/
theorem witness_OutputsAreNeverRead :
    let s := s0 0
    let u := { s with soundTimer := 1, drawFlag := true, soundFlag := true }
    u = { s with soundTimer := u.soundTimer, drawFlag := u.drawFlag, soundFlag := u.soundFlag } ∧ u ≠ s ∧
      (executed (.ldI 1) s).isSome ∧ (executed (.ldI 1) u).isSome := by decide

theorem witness_CanonicalMemoryIsUnique :
    Memory.wf defaultFont (Memory.write defaultFont [(0x300, 1)] 0x301 2) = true ∧
    Memory.wf defaultFont (Memory.write defaultFont [(0x301, 2)] 0x300 1) = true ∧
    ∀ a < 4096, Memory.read defaultFont (Memory.write defaultFont [(0x300, 1)] 0x301 2) a =
      Memory.read defaultFont (Memory.write defaultFont [(0x301, 2)] 0x300 1) a :=
  ⟨by decide, by decide, fun _ _ => rfl⟩

theorem witness_InvariantKept : Inv { faultedState with hostPlan := [⟨5, .reset⟩] } ∧
    ∃ t, step { faultedState with hostPlan := [⟨5, .reset⟩] } = .next t :=
  ⟨{ witness_faulted_inv with }, _, rfl⟩

end Sys2Proof.Machine.Tests
end

/-! ### Memory (20_memory.md): the fetch -/

namespace Sys2Proof

/-- The high byte of a big-endian pair (R61). -/
@[simp] theorem highByte_wordOfBytes (hi lo : Byte) : highByte (wordOfBytes hi lo) = hi :=
  BitVec.extractLsb'_append_eq_left

/-- The low byte of a big-endian pair (R61). -/
@[simp] theorem lowByte_wordOfBytes (hi lo : Byte) : lowByte (wordOfBytes hi lo) = lo :=
  BitVec.extractLsb'_append_eq_right

end Sys2Proof

namespace Sys2Proof.Machine

/-- Settles O7, by the two cases of the fetch guard: in range, the fetched word is the big-endian pair of the two bytes
that the guarded reads return. -/
theorem fetchIsGuardedBigEndian : Obligations.FetchIsGuardedBigEndian := by
  intro s
  constructor
  · intro hpc
    rw [s.fetched_of_lt (by omega), highByte_wordOfBytes, lowByte_wordOfBytes, s.load?_of_lt (a := s.pc.toNat) (by omega),
      s.load?_of_lt hpc]
    exact ⟨rfl, rfl⟩
  · intro hpc
    exact s.fetched_of_ge (by omega)

end Sys2Proof.Machine


/-! ### Control flow (40_control_flow.md): jumps and skips on an immediate -/

namespace Sys2Proof

/-- The row `1nnn` of R100. -/
theorem decode_of_opField_one {w : Word} (h : opField w = 0x1) : decode w = .ok (.jp (nnnField w)) := by
  simp [decode, h]

/-- The row `3xnn` of R100. -/
theorem decode_of_opField_three {w : Word} (h : opField w = 0x3) :
    decode w = .ok (.seImm (xField w) (nnField w)) := by
  simp [decode, h]

/-- The row `4xnn` of R100. -/
theorem decode_of_opField_four {w : Word} (h : opField w = 0x4) :
    decode w = .ok (.sneImm (xField w) (nnField w)) := by
  simp [decode, h]

/-- The row `Bnnn` of R100. -/
theorem decode_of_opField_eleven {w : Word} (h : opField w = 0xB) : decode w = .ok (.jpV0 (nnnField w)) := by
  simp [decode, h]

end Sys2Proof

namespace Sys2Proof.Machine

/-- The zero extension of an address operand keeps its value. -/
@[simp] theorem toNat_addrImm (nnn : BitVec 12) : (addrImm nnn).toNat = nnn.toNat :=
  BitVec.toNat_setWidth_of_le (by decide)

/-- The zero extension of a register keeps its value. -/
@[simp] theorem toNat_regToWord (b : Byte) : (regToWord b).toNat = b.toNat :=
  BitVec.toNat_setWidth_of_le (by decide)

/-- R127: a byte plus a 12-bit address is at most 0x10FE, so the sum does not wrap. -/
theorem toNat_regToWord_add_addrImm (b : Byte) (nnn : BitVec 12) :
    (regToWord b + addrImm nnn).toNat = b.toNat + nnn.toNat := by
  rw [BitVec.toNat_add, toNat_regToWord, toNat_addrImm]
  exact Nat.mod_eq_of_lt (by omega)

theorem onlyPc_setPc (s : State) (w : Word) : OnlyPc s (s.setPc w) := rfl

theorem onlyPc_skipIf (s : State) (c : Bool) : OnlyPc s (s.skipIf c) := by cases c <;> rfl

/-- The conditional skip of R129 on numbers: 2 more, modulo the width of `pc`. -/
theorem toNat_skipIf_pc (s : State) (c : Bool) :
    (s.skipIf c).pc.toNat = if c then (s.pc.toNat + 2) % 65536 else s.pc.toNat := by
  cases c
  · rfl
  · exact BitVec.toNat_add s.pc 2

/-- Settles O13: the jump is one `setPc` of the zero-extended address. -/
theorem jumpSetsPc : Obligations.JumpSetsPc := by
  refine ⟨fun _ => decode_of_opField_one, fun nnn s => ⟨s.setPc (addrImm nnn), rfl, ?_, onlyPc_setPc ..⟩⟩
  exact toNat_addrImm nnn

/-- Settles O16: both skips are `skipIf`, on the equality of register and immediate and on its negation. -/
theorem skipOnImmediate : Obligations.SkipOnImmediate := by
  refine ⟨fun _ => ⟨decode_of_opField_three, decode_of_opField_four⟩, fun x nn s => ⟨?_, ?_⟩⟩
  · refine ⟨s.skipIf (s.reg x == nn), rfl, onlyPc_skipIf .., ?_⟩
    simp only [toNat_skipIf_pc, beq_iff_eq]
  · refine ⟨s.skipIf (s.reg x != nn), rfl, onlyPc_skipIf .., ?_⟩
    simp only [toNat_skipIf_pc, bne_iff_ne]

/-- Settles O18: the indexed jump is one `setPc` of a sum that does not wrap. -/
theorem indexedJump : Obligations.IndexedJump := by
  refine ⟨fun _ => decode_of_opField_eleven, fun nnn s =>
    ⟨s.setPc (regToWord (s.reg 0) + addrImm nnn), rfl, onlyPc_setPc .., ?_⟩⟩
  exact toNat_regToWord_add_addrImm (s.reg 0) nnn

end Sys2Proof.Machine


/-! ### Registers and arithmetic (41_alu.md): loads, the add without a flag, and logic -/

namespace Sys2Proof

/-- The row `6xnn` of R100. -/
theorem decode_of_opField_six {w : Word} (h : opField w = 0x6) :
    decode w = .ok (.ldImm (xField w) (nnField w)) := by
  simp [decode, h]

/-- The row `7xnn` of R100. -/
theorem decode_of_opField_seven {w : Word} (h : opField w = 0x7) :
    decode w = .ok (.addImm (xField w) (nnField w)) := by
  simp [decode, h]

/-- The rows `8xyN` of R100: the low nibble selects the operation. -/
theorem decode_of_opField_eight {w : Word} (h : opField w = 0x8) :
    decode w = decodeEight (xField w) (yField w) (nField w) := by
  simp [decode, h]

/-- A word `8xyN` with a known low nibble decodes to what `decodeEight` gives for it. -/
theorem decode_of_opField_eight_nField {w : Word} {n : BitVec 4} (h : opField w = 0x8) (hn : nField w = n) :
    decode w = decodeEight (xField w) (yField w) n := by
  rw [decode_of_opField_eight h, hn]

end Sys2Proof

namespace Sys2Proof.Machine

theorem onlyV_setReg (s : State) (x : Reg) (b : Byte) : OnlyV s (s.setReg x b) := rfl

theorem sameRegsBut_setReg (s : State) (x : Reg) (b : Byte) : SameRegsBut [x] s (s.setReg x b) :=
  fun _ hr => s.reg_setReg_ne (List.ne_of_not_mem_cons hr) b

theorem onlyV_setResultFlag (s : State) (x : Reg) (a f : Byte) : OnlyV s (s.setResultFlag x a f) :=
  s.setResultFlag_eq x a f

theorem sameRegsBut_setResultFlag (s : State) (x : Reg) (a f : Byte) :
    SameRegsBut [x, vf] s (s.setResultFlag x a f) := by
  intro r hr
  obtain ⟨hx, hf⟩ : r ≠ x ∧ r ≠ vf := by simpa using hr
  rw [s.reg_setResultFlag, if_neg hf, if_neg hx]

/-- R153: the flag is written second, so it stands for every `x`. -/
@[simp] theorem reg_setResultFlag_vf (s : State) (x : Reg) (a f : Byte) : (s.setResultFlag x a f).reg vf = f := by
  rw [s.reg_setResultFlag, if_pos rfl]

/-- The result stands where the flag does not overwrite it. -/
theorem reg_setResultFlag_result (s : State) {x : Reg} (hx : x ≠ vf) (a f : Byte) :
    (s.setResultFlag x a f).reg x = a := by
  rw [s.reg_setResultFlag, if_neg hx, if_pos rfl]

/-- R143, R144, R145: what the three logic operations share, given the bits of the result. -/
theorem setResultFlag_zero_bitwise (s : State) (x : Reg) {a : Byte} {bit : Nat → Bool} (ha : ∀ b, a.getLsbD b = bit b) :
    OnlyV s (s.setResultFlag x a 0) ∧ SameRegsBut [x, vf] s (s.setResultFlag x a 0) ∧
      (s.setResultFlag x a 0).reg vf = 0 ∧
      (x ≠ vf → ∀ b < 8, ((s.setResultFlag x a 0).reg x).getLsbD b = bit b) := by
  refine ⟨onlyV_setResultFlag .., sameRegsBut_setResultFlag s x a 0, reg_setResultFlag_vf .., fun hx b _ => ?_⟩
  rw [reg_setResultFlag_result s hx, ha]

/-- Settles O19: the load is one `setReg`. -/
theorem loadImmediate : Obligations.LoadImmediate :=
  ⟨fun _ => decode_of_opField_six, fun x nn s =>
    ⟨s.setReg x nn, rfl, onlyV_setReg .., sameRegsBut_setReg s x _, s.reg_setReg_self x nn⟩⟩

/-- Settles O20: one `setReg` of the sum, which wraps at the width of a register; no other register is written. -/
theorem addImmediateWithoutFlag : Obligations.AddImmediateWithoutFlag := by
  refine ⟨fun _ => decode_of_opField_seven, fun x nn s =>
    ⟨s.setReg x (s.reg x + nn), rfl, onlyV_setReg .., sameRegsBut_setReg s x _, ?_⟩⟩
  rw [s.reg_setReg_self, BitVec.toNat_add]

/-- Settles O21: the copy is one `setReg` of the old `V[y]`. -/
theorem copyRegister : Obligations.CopyRegister :=
  ⟨fun _ => decode_of_opField_eight_nField, fun x y s =>
    ⟨s.setReg x (s.reg y), rfl, onlyV_setReg .., sameRegsBut_setReg s x _, s.reg_setReg_self x (s.reg y)⟩⟩

/-- Settles O22: each operation writes its result first and the flag 0 second, so the flag is 0 for every `x`. -/
theorem logicClearsTheFlag : Obligations.LogicClearsTheFlag := by
  refine ⟨fun w h => ⟨?_, ?_, ?_⟩, fun x y s => ⟨?_, ?_, ?_⟩⟩
  · exact decode_of_opField_eight_nField h
  · exact decode_of_opField_eight_nField h
  · exact decode_of_opField_eight_nField h
  · exact ⟨_, rfl, setResultFlag_zero_bitwise s x fun _ => BitVec.getLsbD_or⟩
  · exact ⟨_, rfl, setResultFlag_zero_bitwise s x fun _ => BitVec.getLsbD_and⟩
  · exact ⟨_, rfl, setResultFlag_zero_bitwise s x fun _ => BitVec.getLsbD_xor⟩

end Sys2Proof.Machine


/-! ### Index register and memory (42_index_memory.md): the three instructions that only set `I` -/

namespace Sys2Proof

/-- The row `Annn` of R100. -/
theorem decode_of_opField_ten {w : Word} (h : opField w = 0xA) : decode w = .ok (.ldI (nnnField w)) := by
  simp [decode, h]

/-- The rows `FxNN` of R100: the low byte selects the operation. -/
theorem decode_of_opField_fifteen {w : Word} (h : opField w = 0xF) :
    decode w = decodeF (xField w) (nnField w) := by
  simp [decode, h]

/-- A word `FxNN` with a known low byte decodes to what `decodeF` gives for it. -/
theorem decode_of_opField_fifteen_nnField {w : Word} {nn : Byte} (h : opField w = 0xF) (hnn : nnField w = nn) :
    decode w = decodeF (xField w) nn := by
  rw [decode_of_opField_fifteen h, hnn]

end Sys2Proof

namespace Sys2Proof.Machine

theorem onlyI_setI (s : State) (w : Word) : OnlyI s (s.setI w) := rfl

/-- R172: the glyph base is at most 15 * 5, so the 16-bit product does not wrap. -/
theorem toNat_glyphBase (b : Byte) : (glyphBase b).toNat = b.toNat % 16 * 5 := by
  have low_nibble : (b &&& 0xF).toNat = b.toNat % 16 := Nat.and_two_pow_sub_one_eq_mod b.toNat 4
  have extended : ((b &&& 0xF).setWidth 16).toNat = b.toNat % 16 := by
    rw [BitVec.toNat_setWidth_of_le (by decide), low_nibble]
  calc (glyphBase b).toNat = b.toNat % 16 * 5 % 2 ^ 16 := by
        rw [glyphBase, BitVec.toNat_mul, extended]; rfl
    _ = b.toNat % 16 * 5 := Nat.mod_eq_of_lt (by omega)

/-- Settles O28: the load is one `setI` of the zero-extended address. -/
theorem loadIndex : Obligations.LoadIndex :=
  ⟨fun _ => decode_of_opField_ten, fun nnn s =>
    ⟨s.setI (addrImm nnn), rfl, onlyI_setI .., toNat_addrImm nnn⟩⟩

/-- Settles O29: one `setI` of the sum, which wraps at the width of `I` only; no register is written. -/
theorem addToIndex : Obligations.AddToIndex := by
  refine ⟨fun _ => decode_of_opField_fifteen_nnField, fun x s =>
    ⟨s.setI (s.i + regToWord (s.reg x)), rfl, onlyI_setI .., ?_⟩⟩
  rw [State.setI_i, BitVec.toNat_add, toNat_regToWord]

/-- Settles O30: one `setI` of the glyph base, a product that does not wrap. -/
theorem pointAtGlyph : Obligations.PointAtGlyph :=
  ⟨fun _ => decode_of_opField_fifteen_nnField, fun x s =>
    ⟨s.setI (glyphBase (s.reg x)), rfl, onlyI_setI .., toNat_glyphBase (s.reg x)⟩⟩

end Sys2Proof.Machine


/-! ### Display (43_display.md): the clear -/

namespace Sys2Proof.Machine

/-- No pixel of the framebuffer that `00E0` writes is lit. -/
@[simp] theorem Screen.pixel_replicate_zero (px : Nat) (py : Fin Config.gfxHeight) :
    Screen.pixel (Vector.replicate 32 0) px py = false := by
  rw [Screen.pixel, Fin.getElem_fin, Vector.getElem_replicate]
  exact BitVec.getLsbD_zero

/-- No cell of the framebuffer that `00E0` writes is lit, inside the 2048 cells or past them. -/
@[simp] theorem Screen.cell_replicate_zero (k : Nat) : Screen.cell (Vector.replicate 32 0) k = false := by
  unfold Screen.cell
  split
  · exact pixel_replicate_zero ..
  · rfl

/-- Settles O35: the framebuffer written is the blank one, whatever it was before. -/
theorem clearScreen : Obligations.ClearScreen :=
  ⟨rfl, fun s => ⟨{ s with graphics := Vector.replicate 32 0, drawFlag := true }, rfl, rfl,
    fun k _ => Screen.cell_replicate_zero k⟩⟩

end Sys2Proof.Machine


/-! ### Keypad and timers (44_keypad_timers.md): the skips on a key and the timer registers -/

namespace Sys2Proof

/-- The rows `ExNN` of R100: the low byte selects the skip. -/
theorem decode_of_opField_fourteen {w : Word} (h : opField w = 0xE) :
    (nnField w = 0x9E → decode w = .ok (.skp (xField w))) ∧
      (nnField w = 0xA1 → decode w = .ok (.sknp (xField w))) := by
  constructor
  · intro hnn
    simp [decode, h, hnn]
  · intro hnn
    simp [decode, h, hnn]

end Sys2Proof

namespace Sys2Proof.Machine

/-- R210: a register selects a key by its low nibble. -/
@[simp] theorem val_keyIndex (b : Byte) : (keyIndex b).val = b.toNat % 16 := rfl

theorem keyIndex_eq_of_val {b : Byte} {k : Key} (hk : k.val = b.toNat % 16) : keyIndex b = k :=
  Fin.ext ((val_keyIndex b).trans hk.symm)

/-- R234 on numbers: the decrement is the natural-number subtraction, which stops at 0. -/
@[simp] theorem toNat_tickTimer (b : Byte) : (tickTimer b).toNat = b.toNat - 1 := by
  unfold tickTimer
  split
  next hzero => rw [hzero]; rfl
  next hpos => bv_omega

/-- Settles O38: both skips are `skipIf`, on the level of the selected key and on its negation. -/
theorem skipOnKey : Obligations.SkipOnKey := by
  refine ⟨fun _ => decode_of_opField_fourteen, fun x s => ⟨?_, ?_⟩⟩
  · refine ⟨s.skipIf (s.key (keyIndex (s.reg x))), rfl, onlyPc_skipIf .., fun k hk => ?_⟩
    rw [toNat_skipIf_pc, keyIndex_eq_of_val hk]
  · refine ⟨s.skipIf (!s.key (keyIndex (s.reg x))), rfl, onlyPc_skipIf .., fun k hk => ?_⟩
    simp only [toNat_skipIf_pc, keyIndex_eq_of_val hk, Bool.not_eq_true']

/-- Settles O40: each instruction is one write of a register or of a timer, and the timer phase ticks the timer that it
finds. -/
theorem timerRegisters : Obligations.TimerRegisters := by
  refine ⟨fun w h => ⟨?_, ?_, ?_⟩, fun x s => ⟨?_, ?_, ?_⟩⟩
  · exact decode_of_opField_fifteen_nnField h
  · exact decode_of_opField_fifteen_nnField h
  · exact decode_of_opField_fifteen_nnField h
  · exact ⟨s.setReg x s.delayTimer, rfl, onlyV_setReg .., sameRegsBut_setReg s x _, s.reg_setReg_self x s.delayTimer⟩
  · exact ⟨{ s with delayTimer := s.reg x }, rfl, rfl, toNat_tickTimer (s.reg x)⟩
  · exact ⟨{ s with soundTimer := s.reg x }, rfl, rfl, toNat_tickTimer (s.reg x)⟩

end Sys2Proof.Machine


/-! ### Cycle and driver (45_cycle_driver.md): the key events -/

namespace Sys2Proof.Machine

/-- R240: a key reads what was last written to its entry of `keypad`. -/
theorem State.key_set_keypad (s : State) (k j : Key) (b : Bool) :
    State.key { s with keypad := s.keypad.set k b } j = if j = k then b else s.key j := by
  simp only [State.key, Fin.getElem_fin, Vector.getElem_set, Fin.val_inj, @eq_comm _ k]

@[simp] theorem State.key_set_keypad_self (s : State) (k : Key) (b : Bool) :
    State.key { s with keypad := s.keypad.set k b } k = b := by
  rw [s.key_set_keypad, if_pos rfl]

theorem State.key_set_keypad_ne (s : State) {k j : Key} (h : j ≠ k) (b : Bool) :
    State.key { s with keypad := s.keypad.set k b } j = s.key j := by
  rw [s.key_set_keypad, if_neg h]

/-- Settles O52: each event is one write of its entry of `keypad`, true for `KeyDown` and false for `KeyUp`. -/
theorem keyEventsWriteOneEntry : Obligations.KeyEventsWriteOneEntry := by
  intro k s
  constructor
  · exact ⟨hostKeyDown k s, rfl, rfl, s.key_set_keypad_self k true, fun _ hj => s.key_set_keypad_ne hj true⟩
  · exact ⟨hostKeyUp k s, rfl, rfl, s.key_set_keypad_self k false, fun _ hj => s.key_set_keypad_ne hj false⟩

end Sys2Proof.Machine


/-! ### Encoding (30_encoding.md): the fields of a layout, and the layout of the fields -/

namespace Sys2Proof

@[simp] theorem opField_layoutNNN (op : BitVec 4) (nnn : BitVec 12) : opField (layoutNNN op nnn) = op :=
  BitVec.extractLsb'_append_eq_left

@[simp] theorem nnnField_layoutNNN (op : BitVec 4) (nnn : BitVec 12) : nnnField (layoutNNN op nnn) = nnn :=
  BitVec.extractLsb'_append_eq_right

@[simp] theorem opField_layoutXNN (op : BitVec 4) (x : Reg) (nn : Byte) : opField (layoutXNN op x nn) = op := by
  ext k hk
  simp only [opField, layoutXNN, BitVec.getElem_extractLsb', BitVec.getLsbD_append]
  interval_cases k <;> simp

@[simp] theorem xField_layoutXNN (op : BitVec 4) (x : Reg) (nn : Byte) : xField (layoutXNN op x nn) = x := by
  have nibble : (layoutXNN op x nn).extractLsb' 8 4 = BitVec.ofFin x := by
    ext k hk
    simp only [layoutXNN, BitVec.getElem_extractLsb', BitVec.getLsbD_append]
    interval_cases k <;> simp
  exact congrArg BitVec.toFin nibble

@[simp] theorem nnField_layoutXNN (op : BitVec 4) (x : Reg) (nn : Byte) : nnField (layoutXNN op x nn) = nn :=
  BitVec.extractLsb'_append_eq_right

/-- R92: `XYN` is `XNN` with the low byte cut in two. -/
theorem layoutXYN_eq_layoutXNN (op : BitVec 4) (x y : Reg) (n : BitVec 4) :
    layoutXYN op x y n = layoutXNN op x (BitVec.ofFin y ++ n) :=
  BitVec.append_assoc

@[simp] theorem opField_layoutXYN (op : BitVec 4) (x y : Reg) (n : BitVec 4) : opField (layoutXYN op x y n) = op := by
  rw [layoutXYN_eq_layoutXNN, opField_layoutXNN]

@[simp] theorem xField_layoutXYN (op : BitVec 4) (x y : Reg) (n : BitVec 4) : xField (layoutXYN op x y n) = x := by
  rw [layoutXYN_eq_layoutXNN, xField_layoutXNN]

@[simp] theorem yField_layoutXYN (op : BitVec 4) (x y : Reg) (n : BitVec 4) : yField (layoutXYN op x y n) = y := by
  have nibble : (layoutXYN op x y n).extractLsb' 4 4 = BitVec.ofFin y := by
    ext k hk
    simp only [layoutXYN, BitVec.getElem_extractLsb', BitVec.getLsbD_append]
    interval_cases k <;> simp
  exact congrArg BitVec.toFin nibble

@[simp] theorem nField_layoutXYN (op : BitVec 4) (x y : Reg) (n : BitVec 4) : nField (layoutXYN op x y n) = n :=
  BitVec.extractLsb'_append_eq_right

/-- Every word is the layout `NNN` of its fields. -/
theorem layoutNNN_fields (w : Word) : layoutNNN (opField w) (nnnField w) = w :=
  (BitVec.extractLsb'_append_extractLsb'_eq_extractLsb' rfl).trans BitVec.extractLsb'_eq_self

/-- Every word is the layout `XNN` of its fields. -/
theorem layoutXNN_fields (w : Word) : layoutXNN (opField w) (xField w) (nnField w) = w := by
  have high : w.extractLsb' 12 4 ++ w.extractLsb' 8 4 = w.extractLsb' 8 8 :=
    BitVec.extractLsb'_append_extractLsb'_eq_extractLsb' rfl
  calc layoutXNN (opField w) (xField w) (nnField w)
      = w.extractLsb' 12 4 ++ w.extractLsb' 8 4 ++ w.extractLsb' 0 8 := rfl
    _ = w.extractLsb' 8 8 ++ w.extractLsb' 0 8 := congrArg (· ++ _) high
    _ = w.extractLsb' 0 16 := BitVec.extractLsb'_append_extractLsb'_eq_extractLsb' rfl
    _ = w := BitVec.extractLsb'_eq_self

/-- Every word is the layout `XYN` of its fields. -/
theorem layoutXYN_fields (w : Word) : layoutXYN (opField w) (xField w) (yField w) (nField w) = w := by
  have low : BitVec.ofFin (yField w) ++ nField w = nnField w :=
    BitVec.extractLsb'_append_extractLsb'_eq_extractLsb' rfl
  rw [layoutXYN_eq_layoutXNN, low, layoutXNN_fields]

variable {w : Word} {op : BitVec 4}

theorem layoutNNN_eq (h : opField w = op) : layoutNNN op (nnnField w) = w := h ▸ layoutNNN_fields w

theorem layoutXNN_eq {nn : Byte} (h : opField w = op) (hnn : nnField w = nn) : layoutXNN op (xField w) nn = w :=
  h ▸ hnn ▸ layoutXNN_fields w

theorem layoutXYN_eq {n : BitVec 4} (h : opField w = op) (hn : nField w = n) :
    layoutXYN op (xField w) (yField w) n = w :=
  h ▸ hn ▸ layoutXYN_fields w

/-! #### The rows of R100, continued: decoding by the high nibble -/

/-- The rows `00E0` and `00EE` of R100. -/
theorem decode_of_opField_zero (h : opField w = 0x0) :
    decode w = if w = 0x00E0 then .ok .cls else if w = 0x00EE then .ok .ret else .error .zeroNnn := by
  simp [decode, h]

/-- The row `2nnn` of R100. -/
theorem decode_of_opField_two (h : opField w = 0x2) : decode w = .ok (.call (nnnField w)) := by
  simp [decode, h]

/-- The row `5xy0` of R100. -/
theorem decode_of_opField_five (h : opField w = 0x5) :
    decode w = if nField w = 0 then .ok (.seReg (xField w) (yField w)) else .error .fiveXyN := by
  simp [decode, h]

/-- The row `9xy0` of R100. -/
theorem decode_of_opField_nine (h : opField w = 0x9) :
    decode w = if nField w = 0 then .ok (.sneReg (xField w) (yField w)) else .error .nineXyN := by
  simp [decode, h]

/-- The row `Cxnn` of R100. -/
theorem decode_of_opField_twelve (h : opField w = 0xC) : decode w = .ok (.rnd (xField w) (nnField w)) := by
  simp [decode, h]

/-- The row `Dxyn` of R100. -/
theorem decode_of_opField_thirteen (h : opField w = 0xD) :
    decode w = .ok (.drw (xField w) (yField w) (nField w)) := by
  simp [decode, h]

/-- The rows `Ex9E` and `ExA1` of R100, and the rest of their space. -/
theorem decode_of_opField_fourteen_eq (h : opField w = 0xE) :
    decode w = if nnField w = 0x9E#8 then .ok (.skp (xField w)) else
      if nnField w = 0xA1#8 then .ok (.sknp (xField w)) else .error .eXNN := by
  simp [decode, h]

/-- Settles O2: the decoder reads back from each layout the fields that the encoder put into it, by the formats of
R92. -/
theorem decodeOfEncode : Obligations.DecodeOfEncode := by
  intro i
  cases i with
  | cls | ret => rfl
  | jp | call | ldI | jpV0 => simp [encode, decode]
  | seImm | sneImm | ldImm | addImm | rnd => simp [encode, decode]
  | skp | sknp => simp [encode, decode]
  | seReg | sneReg | drw => simp [encode, decode]
  | ldReg | orReg | andReg | xorReg | addReg | subReg | shr | subnReg | shl => simp [encode, decode, decodeEight]
  | ldFromDelay | ldKey | ldDelay | ldSound | addI | ldFont | ldBcd | storeRegs | loadRegs =>
    simp [encode, decode, decodeF]

/-- A row `8xyN` that is decoded has its low nibble in the layout. -/
theorem encode_of_decodeEight {x y : Reg} {n : BitVec 4} {i : Instr} (h : decodeEight x y n = .ok i) :
    encode i = layoutXYN 0x8 x y n := by
  unfold decodeEight at h
  split_ifs at h with hn hn hn hn hn hn hn hn hn <;> cases h <;> rw [hn] <;> rfl

/-- A row `FxNN` that is decoded has its low byte in the layout. -/
theorem encode_of_decodeF {x : Reg} {nn : Byte} {i : Instr} (h : decodeF x nn = .ok i) :
    encode i = layoutXNN 0xF x nn := by
  unfold decodeF at h
  split_ifs at h with hn hn hn hn hn hn hn hn hn <;> cases h <;> rw [hn] <;> rfl

/-- The high nibble has sixteen values; a proof about a word has one case for each. -/
theorem exists_opField_eq (w : Word) : ∃ op : Fin 16, opField w = BitVec.ofFin op := ⟨(opField w).toFin, rfl⟩

/-- Settles O3, by the sixteen values of the high nibble: the operands of the decoded instruction are the fields of the
word, and the digits that are no operand have been tested. -/
theorem encodeOfDecode : Obligations.EncodeOfDecode := by
  intro w i h
  obtain ⟨op, hop⟩ := exists_opField_eq w
  match op, hop with
  | 0, hop =>
    rw [decode_of_opField_zero hop] at h
    split_ifs at h with hw hw <;> cases h <;> exact hw.symm
  | 1, hop => cases (decode_of_opField_one hop).symm.trans h; exact layoutNNN_eq hop
  | 2, hop => cases (decode_of_opField_two hop).symm.trans h; exact layoutNNN_eq hop
  | 3, hop => cases (decode_of_opField_three hop).symm.trans h; exact layoutXNN_eq hop rfl
  | 4, hop => cases (decode_of_opField_four hop).symm.trans h; exact layoutXNN_eq hop rfl
  | 5, hop =>
    rw [decode_of_opField_five hop] at h
    split_ifs at h with hn
    cases h
    exact layoutXYN_eq hop hn
  | 6, hop => cases (decode_of_opField_six hop).symm.trans h; exact layoutXNN_eq hop rfl
  | 7, hop => cases (decode_of_opField_seven hop).symm.trans h; exact layoutXNN_eq hop rfl
  | 8, hop =>
    rw [decode_of_opField_eight hop] at h
    exact (encode_of_decodeEight h).trans (layoutXYN_eq hop rfl)
  | 9, hop =>
    rw [decode_of_opField_nine hop] at h
    split_ifs at h with hn
    cases h
    exact layoutXYN_eq hop hn
  | 10, hop => cases (decode_of_opField_ten hop).symm.trans h; exact layoutNNN_eq hop
  | 11, hop => cases (decode_of_opField_eleven hop).symm.trans h; exact layoutNNN_eq hop
  | 12, hop => cases (decode_of_opField_twelve hop).symm.trans h; exact layoutXNN_eq hop rfl
  | 13, hop => cases (decode_of_opField_thirteen hop).symm.trans h; exact layoutXYN_eq hop rfl
  | 14, hop =>
    rw [decode_of_opField_fourteen_eq hop] at h
    split_ifs at h with hnn hnn <;> cases h <;> exact layoutXNN_eq hop hnn
  | 15, hop =>
    rw [decode_of_opField_fifteen hop] at h
    exact (encode_of_decodeF h).trans (layoutXNN_eq hop rfl)
  | ⟨n + 16, hn⟩, _ => exact absurd hn (by omega)

/-! #### The opcode map: what a row says of a word's fields, and how far two rows agree -/

variable {r : OpcodeRow}

/-- A row that fixes the high nibble. -/
theorem opField_of_selects (hm : opField r.mask = 0xF) (h : r.selects w = true) : opField w = opField r.value := by
  rw [← eq_of_beq h]
  exact ((BitVec.extractLsb'_and ..).trans ((congrArg _ hm).trans BitVec.and_allOnes)).symm

/-- A row that fixes the low nibble. -/
theorem nField_of_selects (hm : nField r.mask = 0xF) (h : r.selects w = true) : nField w = nField r.value := by
  rw [← eq_of_beq h]
  exact ((BitVec.extractLsb'_and ..).trans ((congrArg _ hm).trans BitVec.and_allOnes)).symm

/-- A row that fixes the low byte. -/
theorem nnField_of_selects (hm : nnField r.mask = 0xFF) (h : r.selects w = true) : nnField w = nnField r.value := by
  rw [← eq_of_beq h]
  exact ((BitVec.extractLsb'_and ..).trans ((congrArg _ hm).trans BitVec.and_allOnes)).symm

/-- A row that fixes every digit. -/
theorem eq_value_of_selects (hm : r.mask = 0xFFFF) (h : r.selects w = true) : w = r.value := by
  rw [← eq_of_beq h, hm]
  exact BitVec.and_allOnes.symm

/-- A word of a row `8xyN`. -/
theorem decode_of_selects_eight (ho : opField r.mask = 0xF) (hm : nField r.mask = 0xF) (hv : opField r.value = 0x8)
    (h : r.selects w = true) : decode w = decodeEight (xField w) (yField w) (nField r.value) :=
  decode_of_opField_eight_nField ((opField_of_selects ho h).trans hv) (nField_of_selects hm h)

/-- A word of a row `FxNN`. -/
theorem decode_of_selects_fifteen (ho : opField r.mask = 0xF) (hm : nnField r.mask = 0xFF)
    (hv : opField r.value = 0xF) (h : r.selects w = true) : decode w = decodeF (xField w) (nnField r.value) :=
  decode_of_opField_fifteen_nnField ((opField_of_selects ho h).trans hv) (nnField_of_selects hm h)

/-- A word that row `k` selects decodes to an instruction of that row: the row fixes the digits the decoder tests. -/
theorem decode_of_selects (w : Word) (k : Fin 34) (h : opcodeMap[k].selects w = true) :
    ∃ i, decode w = .ok i ∧ i.row = k :=
  match k, h with
  | 0, h => ⟨.cls, eq_value_of_selects rfl h ▸ rfl, rfl⟩
  | 1, h => ⟨.ret, eq_value_of_selects rfl h ▸ rfl, rfl⟩
  | 2, h => ⟨_, decode_of_opField_one (opField_of_selects rfl h), rfl⟩
  | 3, h => ⟨_, decode_of_opField_two (opField_of_selects rfl h), rfl⟩
  | 4, h => ⟨_, decode_of_opField_three (opField_of_selects rfl h), rfl⟩
  | 5, h => ⟨_, decode_of_opField_four (opField_of_selects rfl h), rfl⟩
  | 6, h => ⟨_, (decode_of_opField_five (opField_of_selects rfl h)).trans (if_pos (nField_of_selects rfl h)), rfl⟩
  | 7, h => ⟨_, decode_of_opField_six (opField_of_selects rfl h), rfl⟩
  | 8, h => ⟨_, decode_of_opField_seven (opField_of_selects rfl h), rfl⟩
  | 9, h => ⟨.ldReg .., decode_of_selects_eight rfl rfl rfl h, rfl⟩
  | 10, h => ⟨.orReg .., decode_of_selects_eight rfl rfl rfl h, rfl⟩
  | 11, h => ⟨.andReg .., decode_of_selects_eight rfl rfl rfl h, rfl⟩
  | 12, h => ⟨.xorReg .., decode_of_selects_eight rfl rfl rfl h, rfl⟩
  | 13, h => ⟨.addReg .., decode_of_selects_eight rfl rfl rfl h, rfl⟩
  | 14, h => ⟨.subReg .., decode_of_selects_eight rfl rfl rfl h, rfl⟩
  | 15, h => ⟨.shr .., decode_of_selects_eight rfl rfl rfl h, rfl⟩
  | 16, h => ⟨.subnReg .., decode_of_selects_eight rfl rfl rfl h, rfl⟩
  | 17, h => ⟨.shl .., decode_of_selects_eight rfl rfl rfl h, rfl⟩
  | 18, h => ⟨_, (decode_of_opField_nine (opField_of_selects rfl h)).trans (if_pos (nField_of_selects rfl h)), rfl⟩
  | 19, h => ⟨_, decode_of_opField_ten (opField_of_selects rfl h), rfl⟩
  | 20, h => ⟨_, decode_of_opField_eleven (opField_of_selects rfl h), rfl⟩
  | 21, h => ⟨_, decode_of_opField_twelve (opField_of_selects rfl h), rfl⟩
  | 22, h => ⟨_, decode_of_opField_thirteen (opField_of_selects rfl h), rfl⟩
  | 23, h => ⟨_, (decode_of_opField_fourteen (opField_of_selects rfl h)).1 (nnField_of_selects rfl h), rfl⟩
  | 24, h => ⟨_, (decode_of_opField_fourteen (opField_of_selects rfl h)).2 (nnField_of_selects rfl h), rfl⟩
  | 25, h => ⟨.ldFromDelay _, decode_of_selects_fifteen rfl rfl rfl h, rfl⟩
  | 26, h => ⟨.ldKey _, decode_of_selects_fifteen rfl rfl rfl h, rfl⟩
  | 27, h => ⟨.ldDelay _, decode_of_selects_fifteen rfl rfl rfl h, rfl⟩
  | 28, h => ⟨.ldSound _, decode_of_selects_fifteen rfl rfl rfl h, rfl⟩
  | 29, h => ⟨.addI _, decode_of_selects_fifteen rfl rfl rfl h, rfl⟩
  | 30, h => ⟨.ldFont _, decode_of_selects_fifteen rfl rfl rfl h, rfl⟩
  | 31, h => ⟨.ldBcd _, decode_of_selects_fifteen rfl rfl rfl h, rfl⟩
  | 32, h => ⟨.storeRegs _, decode_of_selects_fifteen rfl rfl rfl h, rfl⟩
  | 33, h => ⟨.loadRegs _, decode_of_selects_fifteen rfl rfl rfl h, rfl⟩
  | ⟨n + 34, hn⟩, _ => absurd hn (by omega)

open Laws in
/-- The word of every instruction is selected by the instruction's row. -/
theorem row_selects_encode (i : Instr) : opcodeMap[i.row].selects (encode i) = true :=
  match i with
  | .cls => WordOfRow.cls
  | .ret => WordOfRow.ret
  | .jp nnn => WordOfRow.jp nnn
  | .call nnn => WordOfRow.call nnn
  | .seImm x nn => WordOfRow.seImm x nn
  | .sneImm x nn => WordOfRow.sneImm x nn
  | .seReg x y => WordOfRow.seReg x y
  | .ldImm x nn => WordOfRow.ldImm x nn
  | .addImm x nn => WordOfRow.addImm x nn
  | .ldReg x y => WordOfRow.ldReg x y
  | .orReg x y => WordOfRow.orReg x y
  | .andReg x y => WordOfRow.andReg x y
  | .xorReg x y => WordOfRow.xorReg x y
  | .addReg x y => WordOfRow.addReg x y
  | .subReg x y => WordOfRow.subReg x y
  | .shr x y => WordOfRow.shr x y
  | .subnReg x y => WordOfRow.subnReg x y
  | .shl x y => WordOfRow.shl x y
  | .sneReg x y => WordOfRow.sneReg x y
  | .ldI nnn => WordOfRow.ldI nnn
  | .jpV0 nnn => WordOfRow.jpV0 nnn
  | .rnd x nn => WordOfRow.rnd x nn
  | .drw x y n => WordOfRow.drw x y n
  | .skp x => WordOfRow.skp x
  | .sknp x => WordOfRow.sknp x
  | .ldFromDelay x => WordOfRow.ldFromDelay x
  | .ldKey x => WordOfRow.ldKey x
  | .ldDelay x => WordOfRow.ldDelay x
  | .ldSound x => WordOfRow.ldSound x
  | .addI x => WordOfRow.addI x
  | .ldFont x => WordOfRow.ldFont x
  | .ldBcd x => WordOfRow.ldBcd x
  | .storeRegs x => WordOfRow.storeRegs x
  | .loadRegs x => WordOfRow.loadRegs x

/-- Settles O4: a decoded word is its instruction's encoding, which the instruction's row selects; conversely a row
fixes the digits that the decoder tests. -/
theorem decodeFollowsOpcodeMap : Obligations.DecodeFollowsOpcodeMap := by
  intro w k
  constructor
  · rintro ⟨i, hi, rfl⟩
    rw [← encodeOfDecode w i hi]
    exact row_selects_encode i
  · exact decode_of_selects w k

/-- Two rows whose fixed digits agree wherever both fix one are the same row. -/
theorem opcodeMap_clash : ∀ j k : Fin 34,
    opcodeMap[j].value &&& opcodeMap[k].mask = opcodeMap[k].value &&& opcodeMap[j].mask → j = k := by
  decide

/-- Settles O5: where one word satisfies two rows, their fixed digits agree wherever both fix one. -/
theorem opcodeMapExclusive : Obligations.OpcodeMapExclusive := by
  intro w j k hj hk
  apply opcodeMap_clash
  rw [← eq_of_beq hj, ← eq_of_beq hk, BitVec.and_assoc, BitVec.and_assoc, BitVec.and_comm (opcodeMap[j].mask)]

/-! #### The undefined spaces (R102) -/

/-- The words of an undefined space, as R102 lists them. -/
def Undefined.Contains (w : Word) : Undefined → Prop
  | .zeroNnn => opField w = 0x0 ∧ w ≠ 0x00E0 ∧ w ≠ 0x00EE
  | .fiveXyN => opField w = 0x5 ∧ nField w ≠ 0
  | .eightXyN => opField w = 0x8 ∧ nField w ∈ [0x8, 0x9, 0xA, 0xB, 0xC, 0xD, 0xF]
  | .nineXyN => opField w = 0x9 ∧ nField w ≠ 0
  | .eXNN => opField w = 0xE ∧ nnField w ∉ [0x9E, 0xA1]
  | .fXNN => opField w = 0xF ∧ nnField w ∉ [0x07, 0x0A, 0x15, 0x18, 0x1E, 0x29, 0x33, 0x55, 0x65]

/-- The low nibbles of `8xyN` that R102 lists are those that no row takes. -/
theorem decodeEight_eq_error_iff {x y : Reg} {n : BitVec 4} {u : Undefined} :
    decodeEight x y n = .error u ↔ u = .eightXyN ∧ n ∈ [0x8, 0x9, 0xA, 0xB, 0xC, 0xD, 0xF] := by
  have complement : n ∈ ([0x8, 0x9, 0xA, 0xB, 0xC, 0xD, 0xF] : List (BitVec 4)) ↔
      n ∉ [0x0#4, 0x1#4, 0x2#4, 0x3#4, 0x4#4, 0x5#4, 0x6#4, 0x7#4, 0xE#4] := by
    revert n; decide
  rw [complement]
  unfold decodeEight
  split_ifs <;> simp [*, @eq_comm _ u]

theorem decodeF_eq_error_iff {x : Reg} {nn : Byte} {u : Undefined} :
    decodeF x nn = .error u ↔ u = .fXNN ∧ nn ∉ [0x07, 0x0A, 0x15, 0x18, 0x1E, 0x29, 0x33, 0x55, 0x65] := by
  unfold decodeF
  split_ifs <;> simp [*, @eq_comm _ u]

/-- A rejected word lies in the space by whose name it is rejected; the sixteen values of the high nibble. -/
theorem contains_of_decode_eq_error {u : Undefined} (h : decode w = .error u) : u.Contains w := by
  obtain ⟨op, hop⟩ := exists_opField_eq w
  match op, hop with
  | 0, hop =>
    rw [decode_of_opField_zero hop] at h
    split_ifs at h with hcls hret
    cases h
    exact ⟨hop, hcls, hret⟩
  | 1, hop => cases (decode_of_opField_one hop).symm.trans h
  | 2, hop => cases (decode_of_opField_two hop).symm.trans h
  | 3, hop => cases (decode_of_opField_three hop).symm.trans h
  | 4, hop => cases (decode_of_opField_four hop).symm.trans h
  | 5, hop =>
    rw [decode_of_opField_five hop] at h
    split_ifs at h with hn
    cases h
    exact ⟨hop, hn⟩
  | 6, hop => cases (decode_of_opField_six hop).symm.trans h
  | 7, hop => cases (decode_of_opField_seven hop).symm.trans h
  | 8, hop =>
    rw [decode_of_opField_eight hop, decodeEight_eq_error_iff] at h
    obtain ⟨rfl, hn⟩ := h
    exact ⟨hop, hn⟩
  | 9, hop =>
    rw [decode_of_opField_nine hop] at h
    split_ifs at h with hn
    cases h
    exact ⟨hop, hn⟩
  | 10, hop => cases (decode_of_opField_ten hop).symm.trans h
  | 11, hop => cases (decode_of_opField_eleven hop).symm.trans h
  | 12, hop => cases (decode_of_opField_twelve hop).symm.trans h
  | 13, hop => cases (decode_of_opField_thirteen hop).symm.trans h
  | 14, hop =>
    rw [decode_of_opField_fourteen_eq hop] at h
    split_ifs at h with hskp hsknp
    cases h
    exact ⟨hop, by simp [hskp, hsknp]⟩
  | 15, hop =>
    rw [decode_of_opField_fifteen hop, decodeF_eq_error_iff] at h
    obtain ⟨rfl, hnn⟩ := h
    exact ⟨hop, hnn⟩
  | ⟨n + 16, hn⟩, _ => exact absurd hn (by omega)

/-- A word of an undefined space is rejected by the name of the space. -/
theorem decode_of_contains {u : Undefined} (h : u.Contains w) : decode w = .error u := by
  cases u with
  | zeroNnn => rw [decode_of_opField_zero h.1, if_neg h.2.1, if_neg h.2.2]
  | fiveXyN => rw [decode_of_opField_five h.1, if_neg h.2]
  | eightXyN => rw [decode_of_opField_eight h.1, decodeEight_eq_error_iff]; exact ⟨rfl, h.2⟩
  | nineXyN => rw [decode_of_opField_nine h.1, if_neg h.2]
  | eXNN =>
    obtain ⟨hskp, hsknp⟩ : nnField w ≠ 0x9E#8 ∧ nnField w ≠ 0xA1#8 := by simpa using h.2
    rw [decode_of_opField_fourteen_eq h.1, if_neg hskp, if_neg hsknp]
  | fXNN => rw [decode_of_opField_fifteen h.1, decodeF_eq_error_iff]; exact ⟨rfl, h.2⟩

theorem decode_eq_error_iff (w : Word) (u : Undefined) : decode w = .error u ↔ u.Contains w :=
  ⟨contains_of_decode_eq_error, decode_of_contains⟩

/-- R101: a word is rejected exactly when no row selects it. -/
theorem rejected_iff_not_selected (w : Word) :
    (∃ u, decode w = .error u) ↔ ∀ k : Fin 34, opcodeMap[k].selects w = false := by
  constructor
  · rintro ⟨u, hu⟩ k
    by_contra hk
    obtain ⟨i, hi, -⟩ := decode_of_selects w k (eq_true_of_ne_false hk)
    cases hu.symm.trans hi
  · intro h
    cases hw : decode w with
    | error u => exact ⟨u, rfl⟩
    | ok i =>
      have selected := (decodeFollowsOpcodeMap w i.row).1 ⟨i, hw, rfl⟩
      cases selected.symm.trans (h i.row)

/-- Settles O6: no row selects what is rejected (O4), and the name of the rejection is that of the word's space. -/
theorem undefinedSpaces : Obligations.UndefinedSpaces := fun w =>
  ⟨rejected_iff_not_selected w, decode_eq_error_iff w .zeroNnn, decode_eq_error_iff w .fiveXyN,
    decode_eq_error_iff w .eightXyN, decode_eq_error_iff w .nineXyN, decode_eq_error_iff w .eXNN,
    decode_eq_error_iff w .fXNN⟩

/-- Settles O1: the decoder is run on each of the words. -/
theorem handWrittenWordsDecode : Obligations.HandWrittenWordsDecode := by
  refine ⟨rfl, rfl, rfl, rfl, rfl, rfl, rfl, rfl, rfl, rfl, rfl, rfl, rfl, rfl, rfl⟩

end Sys2Proof


/-! ### Control flow (40_control_flow.md): calls, returns, and skips on registers -/

namespace Sys2Proof.Machine

theorem exec_ret_of_ne {s : State} (h : s.sp ≠ 0) : exec .ret s = .next s.pop := if_neg h

theorem exec_ret_of_eq {s : State} (h : s.sp = 0) : exec .ret s = .next { s with halt := .faulted .stackUnderflow } :=
  if_pos h

theorem exec_call_of_ne {s : State} (h : s.sp ≠ 15) (nnn : BitVec 12) :
    exec (.call nnn) s = .next (s.push.setPc (addrImm nnn)) :=
  if_neg h

theorem exec_call_of_eq {s : State} (h : s.sp = 15) (nnn : BitVec 12) :
    exec (.call nnn) s = .next { s with halt := .faulted .stackOverflow } :=
  if_pos h

/-- Below 15 the increment of `sp` does not wrap. -/
theorem toNat_push_sp {s : State} (h : s.sp ≠ 15) : s.push.sp.toNat = s.sp.toNat + 1 := by
  rw [State.push_sp]
  bv_omega

theorem push_sp_ne_zero {s : State} (h : s.sp ≠ 15) : s.push.sp ≠ 0 :=
  fun h0 => Nat.succ_ne_zero s.sp.toNat ((toNat_push_sp h).symm.trans (congrArg BitVec.toNat h0))

/-- Settles O12: above 0 the return is `pop`, whose decrement does not wrap; at 0 it is the fault. -/
theorem returnPopsTheStack : Obligations.ReturnPopsTheStack := by
  refine ⟨rfl, fun s => ⟨fun hsp => ⟨s.pop, exec_ret_of_ne hsp, rfl, ?_, rfl⟩, exec_ret_of_eq⟩⟩
  rw [State.pop_sp]
  bv_omega

/-- Settles O14: below 15 the call is `push` and `setPc`, which write the one slot that the new `sp` names; at 15 it is
the fault. -/
theorem callPushesAndJumps : Obligations.CallPushesAndJumps := by
  refine ⟨fun _ => decode_of_opField_two, fun nnn s => ⟨fun hsp => ?_, fun hsp => exec_call_of_eq hsp nnn⟩⟩
  refine ⟨_, exec_call_of_ne hsp nnn, toNat_push_sp hsp, ?_, fun k hk => ?_, toNat_addrImm nnn, rfl⟩
  · exact Vector.getElem_set_self _
  · exact Vector.getElem_set_ne (s.sp + 1).isLt k.isLt (Ne.symm hk)

/-- Settles O15: `pop` reads the slot that `push` wrote and takes `sp` back. -/
theorem callThenReturn : Obligations.CallThenReturn := by
  intro nnn s hsp
  refine ⟨_, _, exec_call_of_ne hsp nnn, exec_ret_of_ne (push_sp_ne_zero hsp), ?_, fun k hk => ?_⟩
  · have hpc : (s.push.setPc (addrImm nnn)).pop.pc = s.pc := Vector.getElem_set_self _
    have hback : (s.push.setPc (addrImm nnn)).pop.sp = s.sp := by simp
    calc (s.push.setPc (addrImm nnn)).pop
        = { s with
            pc := (s.push.setPc (addrImm nnn)).pop.pc
            sp := (s.push.setPc (addrImm nnn)).pop.sp
            stack := (s.push.setPc (addrImm nnn)).pop.stack } := rfl
      _ = { s with stack := (s.push.setPc (addrImm nnn)).pop.stack } := by rw [hpc, hback]
  · exact Vector.getElem_set_ne (s.sp + 1).isLt k.isLt fun e => hk (e.symm.trans (toNat_push_sp hsp))

/-- Settles O17: the low nibble selects the skip, which is `skipIf` on the equality of the two registers or on its
negation. -/
theorem skipOnRegisters : Obligations.SkipOnRegisters := by
  refine ⟨fun w => ⟨decode_of_opField_five, decode_of_opField_nine⟩, fun x y s => ⟨?_, ?_⟩⟩
  · refine ⟨s.skipIf (s.reg x == s.reg y), rfl, onlyPc_skipIf .., ?_⟩
    simp only [toNat_skipIf_pc, beq_iff_eq]
  · refine ⟨s.skipIf (s.reg x != s.reg y), rfl, onlyPc_skipIf .., ?_⟩
    simp only [toNat_skipIf_pc, bne_iff_ne]

end Sys2Proof.Machine


/-! ### Registers and arithmetic (41_alu.md): the flag writers and the random byte -/

namespace Sys2Proof.Machine

theorem flagByte_decide (p : Prop) [Decidable p] : flagByte (decide p) = if p then 1 else 0 := by
  by_cases h : p <;> simp [flagByte, h]

/-- R147 on numbers: the difference modulo the width of a register. -/
theorem toNat_sub_eq_emod (a b : Byte) : ((a - b).toNat : Int) = (a.toNat - b.toNat : Int) % 256 := by
  rw [BitVec.toNat_sub]
  omega

@[simp] theorem toNat_lowBitFlag (a : Byte) : (lowBitFlag a).toNat = a.toNat % 2 :=
  Nat.and_two_pow_sub_one_eq_mod a.toNat 1

@[simp] theorem toNat_highBitFlag (a : Byte) : (highBitFlag a).toNat = a.toNat / 128 :=
  Nat.shiftRight_eq_div_pow a.toNat 7

theorem toNat_shiftRight_one (a : Byte) : (a >>> 1).toNat = a.toNat / 2 := Nat.shiftRight_eq_div_pow a.toNat 1

theorem toNat_shiftLeft_one (a : Byte) : (a <<< 1).toNat = 2 * a.toNat % 256 := by
  rw [BitVec.toNat_shiftLeft, Nat.shiftLeft_eq, mul_comm]

theorem sameRegsBut_copyFlagShift (s : State) (x y : Reg) (flag shift : Byte → Byte) :
    SameRegsBut [x, vf] s (s.copyFlagShift x y flag shift) := by
  intro r hr
  obtain ⟨hx, hf⟩ : r ≠ x ∧ r ≠ vf := by simpa using hr
  rw [s.reg_copyFlagShift, if_neg hx, if_neg hf]

/-- R153 for `x` not `0xF`: the shifted copy in `V[x]`, the flag in `V[0xF]`. -/
theorem reg_copyFlagShift_of_ne (s : State) {x : Reg} (hx : x ≠ vf) (y : Reg) (flag shift : Byte → Byte) :
    (s.copyFlagShift x y flag shift).reg x = shift (s.reg y) ∧
      (s.copyFlagShift x y flag shift).reg vf = flag (s.reg y) := by
  rw [s.reg_copyFlagShift, s.reg_copyFlagShift, if_pos rfl, if_neg hx, if_neg (Ne.symm hx), if_pos rfl]
  exact ⟨rfl, rfl⟩

/-- R153 for `x = 0xF`: the flag has replaced the copy before the shift. -/
theorem reg_copyFlagShift_vf (s : State) (y : Reg) (flag shift : Byte → Byte) :
    (s.copyFlagShift vf y flag shift).reg vf = shift (flag (s.reg y)) := by
  rw [s.reg_copyFlagShift, if_pos rfl, if_pos rfl]

/-- Settles O23: result first, carry of the unbounded sum second. -/
theorem addWithCarryOut : Obligations.AddWithCarryOut := by
  refine ⟨fun _ => decode_of_opField_eight_nField, fun x y s =>
    ⟨_, rfl, onlyV_setResultFlag .., sameRegsBut_setResultFlag s x _ _, fun hx => ?_, ?_⟩⟩
  · rw [reg_setResultFlag_result s hx, BitVec.toNat_add]
  · rw [reg_setResultFlag_vf, carryFlag, flagByte_decide]

/-- R147, R149: what the two subtractions share. -/
theorem setResultFlag_sub (s : State) (x : Reg) (a b : Byte) :
    OnlyV s (s.setResultFlag x (a - b) (notBorrowFlag a b)) ∧
      SameRegsBut [x, vf] s (s.setResultFlag x (a - b) (notBorrowFlag a b)) ∧
      (x ≠ vf → (((s.setResultFlag x (a - b) (notBorrowFlag a b)).reg x).toNat : Int) =
        (a.toNat - b.toNat : Int) % 256) ∧
      (s.setResultFlag x (a - b) (notBorrowFlag a b)).reg vf = if a.toNat ≥ b.toNat then 1 else 0 := by
  refine ⟨onlyV_setResultFlag .., sameRegsBut_setResultFlag s x _ _, fun hx => ?_, ?_⟩
  · rw [reg_setResultFlag_result s hx, toNat_sub_eq_emod]
  · rw [reg_setResultFlag_vf, notBorrowFlag, flagByte_decide]

/-- Settles O24: the two subtractions are one operation with the operands exchanged. -/
theorem subtractWithNotBorrow : Obligations.SubtractWithNotBorrow := by
  refine ⟨fun _ h => ⟨decode_of_opField_eight_nField h, decode_of_opField_eight_nField h⟩, fun x y s => ⟨?_, ?_⟩⟩
  · exact ⟨_, rfl, setResultFlag_sub s x (s.reg x) (s.reg y)⟩
  · exact ⟨_, rfl, setResultFlag_sub s x (s.reg y) (s.reg x)⟩

/-- Settles O25: copy, flag, shift; with `x = 0xF` the shift takes out the flag bit itself. -/
theorem shiftRightReadsY : Obligations.ShiftRightReadsY := by
  refine ⟨fun _ => decode_of_opField_eight_nField, fun x y s =>
    ⟨_, rfl, s.copyFlagShift_eq .., sameRegsBut_copyFlagShift s x y _ _, fun hx => ?_, ?_⟩⟩
  · obtain ⟨hres, hflag⟩ := reg_copyFlagShift_of_ne s hx y lowBitFlag fun b => b >>> 1
    rw [hres, hflag]
    exact ⟨toNat_shiftRight_one _, toNat_lowBitFlag _⟩
  · rintro rfl
    apply BitVec.eq_of_toNat_eq
    rw [reg_copyFlagShift_vf, toNat_shiftRight_one, toNat_lowBitFlag]
    exact Nat.div_eq_of_lt (Nat.mod_lt _ (by decide))

/-- Settles O26: copy, flag, shift; with `x = 0xF` the shift doubles the flag bit. -/
theorem shiftLeftReadsY : Obligations.ShiftLeftReadsY := by
  refine ⟨fun _ => decode_of_opField_eight_nField, fun x y s =>
    ⟨_, rfl, s.copyFlagShift_eq .., sameRegsBut_copyFlagShift s x y _ _, fun hx => ?_, ?_⟩⟩
  · obtain ⟨hres, hflag⟩ := reg_copyFlagShift_of_ne s hx y highBitFlag fun b => b <<< 1
    rw [hres, hflag]
    exact ⟨toNat_shiftLeft_one _, toNat_highBitFlag _⟩
  · rintro rfl
    rw [reg_copyFlagShift_vf, toNat_shiftLeft_one, toNat_highBitFlag]
    omega

/-- Settles O27: one `setReg` of the masked draw, after the draw has been counted. -/
theorem randomByteIsMaskedDraw : Obligations.RandomByteIsMaskedDraw := by
  refine ⟨fun _ => decode_of_opField_twelve, fun x nn s =>
    ⟨_, rfl, rfl, sameRegsBut_setReg s.useDraw x _, fun b _ => ?_⟩⟩
  rw [State.reg_setReg_self, maskedDraw, BitVec.getLsbD_and]

end Sys2Proof.Machine


/-! ### Index register and memory (42_index_memory.md): digits and register blocks -/

namespace Sys2Proof.Machine

variable (s : State)

@[simp] theorem State.load?_setI (w : Word) (a : Nat) : (s.setI w).load? a = s.load? a := rfl

theorem State.load?_store_self {a : Nat} (h : a < 4096) (v : Byte) : (s.store a v).load? a = some v := by
  rw [s.load?_store, if_pos ⟨rfl, h⟩]

theorem State.load?_store_ne {a b : Nat} (h : b ≠ a) (v : Byte) : (s.store a v).load? b = s.load? b := by
  rw [s.load?_store, if_neg fun hb => h hb.1]

/-! The digits of R173 are below 256, so a byte holds each. -/

@[simp] theorem toNat_hundreds (b : Byte) : (hundreds b).toNat = b.toNat / 100 :=
  Nat.mod_eq_of_lt (by omega)

@[simp] theorem toNat_tens (b : Byte) : (tens b).toNat = b.toNat / 10 % 10 :=
  Nat.mod_eq_of_lt (by omega)

@[simp] theorem toNat_ones (b : Byte) : (ones b).toNat = b.toNat % 10 :=
  Nat.mod_eq_of_lt (by omega)

theorem State.element_ne {j k : Nat} (h : j ≠ k) : s.element j ≠ s.element k := mt Nat.add_left_cancel h

/-- Settles O31: three guarded stores at three different addresses. -/
theorem storeDecimalDigits : Obligations.StoreDecimalDigits := by
  refine ⟨fun _ => decode_of_opField_fifteen_nnField, fun x s => ⟨_, rfl, ?_, fun ha => ?_, fun ha => ?_, fun ha => ?_,
    fun a h0 h1 h2 => ?_⟩⟩
  · exact State.storeBytes_eq (s.element 0) [hundreds (s.reg x), tens (s.reg x), ones (s.reg x)] s
  · rw [State.load?_store_ne _ (s.element_ne (by decide)), State.load?_store_ne _ (s.element_ne (by decide)),
      s.load?_store_self ha]
    exact congrArg some (toNat_hundreds _)
  · rw [State.load?_store_ne _ (s.element_ne (by decide)), State.load?_store_self _ ha]
    exact congrArg some (toNat_tens _)
  · rw [State.load?_store_self _ ha]
    exact congrArg some (toNat_ones _)
  · rw [State.load?_store_ne _ h2, State.load?_store_ne _ h1, State.load?_store_ne _ h0]

/-! The element count of a block is at most 16, so the register of element `r` is `V[r]`. -/

@[simp] theorem elementReg_val (r : Reg) : elementReg r.val = r := Fin.ofNat_val_eq_self r

theorem eq_elementReg_iff {r : Reg} {n : Nat} (hn : n < 16) : r = elementReg n ↔ r.val = n := by
  rw [Fin.ext_iff, elementReg, Fin.val_ofNat, Nat.mod_eq_of_lt hn]

/-- R176: the post-increment wraps at the width of `I`. -/
theorem toNat_bumpI_i (x : Reg) : (s.bumpI x).i.toNat = (s.i.toNat + x.val + 1) % 65536 := by
  rw [State.bumpI, State.setI_i, BitVec.toNat_add, BitVec.toNat_ofNat, Nat.add_mod_mod]
  rfl

/-- `Fx55` changes `mem` and `I` only. -/
theorem State.bumpI_storeBlock (n : Nat) (x : Reg) :
    (s.storeBlock n).bumpI x = { s with mem := (s.storeBlock n).mem, i := (s.bumpI x).i } := by
  conv_lhs => rw [s.storeBlock_eq]
  rfl

/-- `Fx65` changes `v` and `I` only. -/
theorem State.bumpI_loadBlock (n : Nat) (x : Reg) :
    (s.loadBlock n).bumpI x = { s with v := (s.loadBlock n).v, i := (s.bumpI x).i } := by
  conv_lhs => rw [s.loadBlock_eq]
  rfl

/-- A block's element in range holds its register afterwards. -/
theorem State.load?_storeBlock_element {k n : Nat} (hk : k < n) (ha : s.element k < 4096) :
    (s.storeBlock n).load? (s.element k) = some (s.reg (elementReg k)) := by
  induction n with
  | zero => exact absurd hk (Nat.not_lt_zero k)
  | succ n ih =>
    rw [State.storeBlock]
    by_cases h : k = n
    · rw [h] at ha ⊢
      exact State.load?_store_self _ ha _
    · rw [State.load?_store_ne _ (s.element_ne h), ih (by omega)]

/-- An address of no element of the block reads as before. -/
theorem State.load?_storeBlock_of_ne {a n : Nat} (h : ∀ k < n, a ≠ s.element k) :
    (s.storeBlock n).load? a = s.load? a := by
  induction n with
  | zero => rfl
  | succ n ih =>
    rw [State.storeBlock, State.load?_store_ne _ (h n n.lt_succ_self), ih fun k hk => h k (by omega)]

/-- What each register holds after a block load. -/
theorem State.reg_loadBlock {n : Nat} (hn : n ≤ 16) (r : Reg) :
    (s.loadBlock n).reg r = if r.val < n then (s.load? (s.element r.val)).getD 0 else s.reg r := by
  induction n with
  | zero => rfl
  | succ n ih =>
    rw [State.loadBlock, State.reg_setReg, ih (by omega)]
    by_cases h : r.val = n
    · rw [if_pos ((eq_elementReg_iff (by omega)).2 h), if_pos (by omega), h]
    · rw [if_neg (mt (eq_elementReg_iff (by omega)).1 h)]
      have : r.val < n ↔ r.val < n + 1 := by omega
      simp only [this]

/-- Settles O32: the block loop, then the post-increment of the old `I`. -/
theorem storeRegisterBlock : Obligations.StoreRegisterBlock := by
  refine ⟨fun _ => decode_of_opField_fifteen_nnField, fun x s => ⟨_, rfl, ?_, fun r hr ha => ?_, fun a h => ?_, ?_⟩⟩
  · rw [s.bumpI_storeBlock]
  · rw [State.bumpI, State.load?_setI, s.load?_storeBlock_element (Nat.lt_succ_of_le hr) ha, elementReg_val]
  · rw [State.bumpI, State.load?_setI]
    exact s.load?_storeBlock_of_ne fun k hk => h ⟨k, by omega⟩ (Nat.le_of_lt_succ hk)
  · rw [s.bumpI_storeBlock, toNat_bumpI_i]

/-- Settles O33: the block loop, then the post-increment of the old `I`. -/
theorem loadRegisterBlock : Obligations.LoadRegisterBlock := by
  refine ⟨fun _ => decode_of_opField_fifteen_nnField, fun x s => ⟨_, rfl, ?_, fun r hr => ?_, fun r hr => ?_, ?_⟩⟩
  · rw [s.bumpI_loadBlock]
  · rw [State.bumpI, State.reg_setI, s.reg_loadBlock (by omega), if_pos (Nat.lt_succ_of_le hr)]
    split
    next ha => rw [s.load?_of_lt ha]; rfl
    next ha => rw [s.load?_of_ge (by omega)]; rfl
  · rw [State.bumpI, State.reg_setI, s.reg_loadBlock (by omega), if_neg (Nat.not_lt.2 (Nat.succ_le_of_lt hr))]
  · rw [s.bumpI_loadBlock, toNat_bumpI_i]

/-- Settles O34: the load reads, from the memory the store has left, the element that the store wrote for the same
register. -/
theorem storeThenLoadRoundTrip : Obligations.StoreThenLoadRoundTrip := by
  intro x s t u h hmem hparams hi
  cases h
  have element_eq (k : Nat) : u.element k = s.element k := by rw [State.element, hi]
  refine ⟨_, rfl, ?_, fun r hr => ?_⟩
  · rw [s.bumpI_storeBlock, u.bumpI_loadBlock]
    exact congrArg (· + _) hi
  · have hr' : r.val < x.val + 1 := Nat.lt_succ_of_le hr
    rw [State.bumpI, State.reg_setI, u.reg_loadBlock (by omega), if_pos hr', element_eq,
      State.load?_congr _ hmem hparams, State.bumpI, State.load?_setI]
    split
    next ha => rw [s.load?_storeBlock_element hr' ha, elementReg_val]; rfl
    next ha => rw [State.load?_of_ge _ (by omega)]; rfl

end Sys2Proof.Machine


/-! ### Keypad (44_keypad_timers.md): the wait for a release -/

namespace Sys2Proof.Machine

theorem State.releaseEdge_iff (s : State) (k : Key) :
    s.releaseEdge k = true ↔ s.prevKey k = true ∧ s.key k = false := by
  simp [State.releaseEdge]

/-- D11: the scan meets key `k` at position `k`. -/
theorem scanOrder_getElem : ∀ k : Key, scanOrder[k.val]'k.isLt = k := by decide

/-- The scan takes a released key below which none is released. -/
theorem State.releasedKey_eq_some {s : State} {k : Key} (hk : s.releaseEdge k = true)
    (hlow : ∀ j < k, ¬ s.releaseEdge j = true) : s.releasedKey = some k := by
  refine List.find?_eq_some_iff_getElem.2 ⟨hk, k.val, k.isLt, scanOrder_getElem k, fun j hj => ?_⟩
  have hjk := hlow ⟨j, by omega⟩ hj
  rw [← scanOrder_getElem ⟨j, by omega⟩] at hjk
  exact congrArg (! ·) (eq_false_of_ne_true hjk)

theorem State.releasedKey_eq_none {s : State} (h : ∀ k, ¬ s.releaseEdge k = true) : s.releasedKey = none :=
  List.find?_eq_none.2 fun k _ => h k

theorem exec_ldKey_of_some {s : State} {k : Key} (h : s.releasedKey = some k) (x : Reg) :
    exec (.ldKey x) s = .next (s.setReg x (BitVec.ofNat 8 k.val)) := by
  simp only [exec, execLdKey, h]

theorem exec_ldKey_of_none {s : State} (h : s.releasedKey = none) (x : Reg) :
    exec (.ldKey x) s = .next (s.setPc (s.pc - 2)) := by
  simp only [exec, execLdKey, h]

/-- Settles O39: with a lowest released key the instruction is one `setReg`, with none it is one `setPc`. -/
theorem waitForKeyRelease : Obligations.WaitForKeyRelease := by
  refine ⟨fun _ => decode_of_opField_fifteen_nnField, fun x s => ⟨fun k hprev hkey hlow => ?_, fun hnone => ?_⟩⟩
  · have hk : s.releasedKey = some k := State.releasedKey_eq_some ((s.releaseEdge_iff k).2 ⟨hprev, hkey⟩)
      fun j hj => mt (s.releaseEdge_iff j).1 (hlow j hj)
    refine ⟨_, exec_ldKey_of_some hk x, onlyV_setReg .., sameRegsBut_setReg s x _, ?_⟩
    rw [State.reg_setReg_self]
    exact Nat.mod_eq_of_lt (by omega)
  · have hnone : s.releasedKey = none := State.releasedKey_eq_none fun k => mt (s.releaseEdge_iff k).1 (hnone k)
    refine ⟨_, exec_ldKey_of_none hnone x, onlyPc_setPc .., ?_⟩
    rw [State.setPc_pc]
    bv_omega

end Sys2Proof.Machine


/-! ### Display (43_display.md): the sprite draw against its closed form -/

namespace Sys2Proof.Machine

/-- A flip inverts its own pixel and keeps every other. -/
theorem Screen.pixel_flip (g : Screen) {px₀ : Nat} (h : px₀ < 64) (py₀ : Fin 32) (px : Nat) (py : Fin 32) :
    (g.flip px₀ py₀).pixel px py = (g.pixel px py ^^ decide (px = px₀ ∧ py = py₀)) := by
  unfold Screen.flip Screen.pixel
  by_cases hy : py = py₀
  · rw [hy, Fin.getElem_fin, Vector.getElem_set_self, BitVec.getLsbD_xor, BitVec.getLsbD_twoPow]
    simp [h, eq_comm]
  · rw [Fin.getElem_fin, Vector.getElem_set_ne _ _ (by omega)]
    simp [hy]

/-- The cell of a pixel (R31). -/
theorem Screen.cell_pixel (g : Screen) {px : Nat} (hpx : px < 64) (py : Fin 32) :
    g.cell (py.val * 64 + px) = g.pixel px py := by
  have hdiv : (py.val * 64 + px) / 64 = py.val := by omega
  have hmod : (py.val * 64 + px) % 64 = px := by omega
  simp only [Screen.cell, hdiv, hmod, py.isLt, dif_pos]

/-- Each of the 2048 cells is the cell of a pixel. -/
theorem exists_pixel_of_lt {k : Nat} (hk : k < 2048) : ∃ (px : Nat) (py : Fin 32), px < 64 ∧ k = py.val * 64 + px :=
  ⟨k % 64, ⟨k / 64, Nat.div_lt_of_lt_mul hk⟩, Nat.mod_lt _ (by decide), (Nat.div_add_mod' k 64).symm⟩

theorem Screen.ext_cell {g g' : Screen} (h : ∀ k < 2048, g.cell k = g'.cell k) : g = g' := by
  apply Vector.ext
  intro py (hpy : py < 32)
  apply BitVec.eq_of_getLsbD_eq
  intro px (hpx : px < 64)
  have hcell := h (py * 64 + px) (by omega)
  rwa [g.cell_pixel hpx ⟨py, hpy⟩, g'.cell_pixel hpx ⟨py, hpy⟩] at hcell

/-- What a canvas is after the pixels of `toggled`, and no others, have been drawn once each on the framebuffer `g`. -/
structure Canvas.Drawn (g : Screen) (toggled : Nat → Fin 32 → Prop) (c : Canvas) : Prop where
  pixel : ∀ px py, px < 64 → (c.graphics.pixel px py = true ↔ (g.pixel px py = true ↔ ¬ toggled px py))
  hit : c.hit = true ↔ ∃ px py, px < 64 ∧ toggled px py ∧ g.pixel px py = true

/-- Pixel (`px`, `py`) is the one that column `col` of row `row` of a sprite toggles, for a start at (`x0`, `y0`). -/
def SpritePixel (s : State) (stale : Byte) (x0 y0 row col px : Nat) (py : Fin 32) : Prop :=
  (spriteByte s stale row).getLsbD (7 - col) = true ∧ px = x0 + col ∧ py.val = y0 + row

/-- The pixels of the first `n` rows. -/
def SpriteRows (s : State) (stale : Byte) (x0 y0 n px : Nat) (py : Fin 32) : Prop :=
  ∃ row < n, ∃ col < 8, SpritePixel s stale x0 y0 row col px py

/-- The pixels of the first `n` rows and of `k` columns of the next. -/
def SpriteColumns (s : State) (stale : Byte) (x0 y0 n k px : Nat) (py : Fin 32) : Prop :=
  SpriteRows s stale x0 y0 n px py ∨ ∃ col < k, SpritePixel s stale x0 y0 n col px py

namespace Canvas

@[simp] theorem drawPixel_latch (c : Canvas) (x0 : Nat) (py : Fin 32) (col : Nat) :
    (c.drawPixel x0 py col).latch = c.latch := by
  unfold drawPixel; split <;> rfl

@[simp] theorem drawColumns_latch (c : Canvas) (x0 : Nat) (py : Fin 32) (n : Nat) :
    (c.drawColumns x0 py n).latch = c.latch := by
  induction n with
  | zero => rfl
  | succ n ih => rw [drawColumns, drawPixel_latch, ih]

theorem drawRow_latch (c : Canvas) (s : State) (x0 y0 row : Nat) :
    (c.drawRow s x0 y0 row).latch = (s.load? (s.element row)).getD c.latch := by
  unfold drawRow; split
  · exact drawColumns_latch ..
  · rfl

/-- R192: the latch after row `n` is the sprite's byte `B(n)`. -/
theorem drawRows_latch (c : Canvas) (s : State) (x0 y0 n : Nat) :
    (c.drawRows s x0 y0 (n + 1)).latch = spriteByte s c.latch n := by
  rw [drawRows, drawRow_latch]
  unfold spriteByte
  by_cases hn : s.i.toNat + n < 4096
  · rw [s.load?_of_lt hn, if_pos hn]; rfl
  rw [s.load?_of_ge (Nat.le_of_not_lt hn), if_neg hn, Option.getD_none]
  induction n with
  | zero => rw [if_neg (by omega)]; rfl
  | succ n ih =>
    rw [drawRows, drawRow_latch]
    by_cases hlast : s.i.toNat + n < 4096
    · have hend : s.i.toNat + n = 4095 := by omega
      rw [s.load?_of_lt hlast, if_pos (by omega), ← hend]; rfl
    · rw [s.load?_of_ge (Nat.le_of_not_lt hlast), Option.getD_none, ih hlast]

/-- A canvas is described by which pixels are toggled only. -/
theorem Drawn.congr {g : Screen} {T T' : Nat → Fin 32 → Prop} {c : Canvas} (h : Drawn g T c)
    (hT : ∀ px py, px < 64 → (T' px py ↔ T px py)) : Drawn g T' c where
  pixel px py hpx := by rw [hT px py hpx]; exact h.pixel px py hpx
  hit := by
    rw [h.hit]
    exact exists_congr fun px => exists_congr fun py => and_congr_right fun hpx => by rw [hT px py hpx]

/-- One more pixel is drawn. -/
theorem Drawn.flip {g : Screen} {T : Nat → Fin 32 → Prop} {c : Canvas} (h : Drawn g T c) {px₀ : Nat} {py₀ : Fin 32}
    (hpx₀ : px₀ < 64) (hnew : ¬ T px₀ py₀) :
    Drawn g (fun px py => T px py ∨ px = px₀ ∧ py = py₀)
      { c with graphics := c.graphics.flip px₀ py₀, hit := c.hit || c.graphics.pixel px₀ py₀ } where
  pixel px py hpx := by
    have hold := h.pixel px py hpx
    rw [Screen.pixel_flip _ hpx₀]
    by_cases hp : px = px₀ ∧ py = py₀
    · obtain ⟨rfl, rfl⟩ := hp
      have unchanged : c.graphics.pixel px py = g.pixel px py := Bool.eq_iff_iff.2 (by simpa [hnew] using hold)
      simp [unchanged]
    · simp [hp, hold]
  hit := by
    have hold := h.pixel px₀ py₀ hpx₀
    rw [Bool.or_eq_true, h.hit, hold]
    constructor
    · rintro (⟨px, py, hpx, hT, hg⟩ | hg)
      · exact ⟨px, py, hpx, .inl hT, hg⟩
      · exact ⟨px₀, py₀, hpx₀, .inr ⟨rfl, rfl⟩, hg.2 hnew⟩
    · rintro ⟨px, py, hpx, hT | ⟨rfl, rfl⟩, hg⟩
      · exact .inl ⟨px, py, hpx, hT, hg⟩
      · exact .inr ⟨fun _ => hnew, fun _ => hg⟩

variable {g : Screen} {s : State} {stale : Byte} {x0 y0 n : Nat} {c : Canvas}

/-- The columns of row `n`, one after the other, on the rows before it. -/
theorem Drawn.drawColumns (h : Drawn g (SpriteRows s stale x0 y0 n) c) (hlatch : c.latch = spriteByte s stale n)
    {py : Fin 32} (hpy : py.val = y0 + n) {k : Nat} :
    Drawn g (SpriteColumns s stale x0 y0 n k) (c.drawColumns x0 py k) := by
  induction k with
  | zero => exact h.congr fun px py _ => by simp [SpriteColumns]
  | succ k ih =>
    have latch_eq : (c.drawColumns x0 py k).latch = spriteByte s stale n := (drawColumns_latch ..).trans hlatch
    have step (px : Nat) (py' : Fin 32) : SpriteColumns s stale x0 y0 n (k + 1) px py' ↔
        SpriteColumns s stale x0 y0 n k px py' ∨ SpritePixel s stale x0 y0 n k px py' := by
      simp only [SpriteColumns, Nat.lt_succ_iff_lt_or_eq, or_and_right, exists_or, exists_eq_left, or_assoc]
    rw [Canvas.drawColumns]
    unfold drawPixel
    split
    next hbit =>
      rw [latch_eq] at hbit
      refine (ih.flip hbit.1 ?_).congr fun px py' _ => (step px py').trans (or_congr_right ?_)
      · rintro (⟨row, hrow, _, _, _, _, hy⟩ | ⟨col, hcol, _, hx, _⟩) <;> omega
      · simp [SpritePixel, hbit.2, Fin.ext_iff, hpy]
    next hbit =>
      rw [latch_eq] at hbit
      refine ih.congr fun px py' hpx => (step px py').trans (or_iff_left ?_)
      rintro ⟨hb, rfl, _⟩
      exact hbit ⟨hpx, hb⟩

/-- The canvas on which `Dxyn` begins (R191). -/
def start (g : Screen) (stale : Byte) : Canvas := { latch := stale, graphics := g, hit := false }

/-- The rows, one after the other. -/
theorem drawn_drawRows (g : Screen) (s : State) (stale : Byte) (x0 y0 n : Nat) :
    Drawn g (SpriteRows s stale x0 y0 n) ((start g stale).drawRows s x0 y0 n) := by
  induction n with
  | zero => exact ⟨fun px py _ => by simp [SpriteRows, drawRows, start], by simp [SpriteRows, drawRows, start]⟩
  | succ n ih =>
    have hlatch := drawRows_latch (start g stale) s x0 y0 n
    rw [drawRows, drawRow_latch] at hlatch
    rw [drawRows, drawRow]
    have loaded : Drawn g (SpriteRows s stale x0 y0 n)
        { (start g stale).drawRows s x0 y0 n with latch := spriteByte s stale n } := ⟨ih.pixel, ih.hit⟩
    have step (px : Nat) (py : Fin 32) :
        SpriteRows s stale x0 y0 (n + 1) px py ↔ SpriteColumns s stale x0 y0 n 8 px py := by
      simp only [SpriteRows, SpriteColumns, Nat.lt_succ_iff_lt_or_eq, or_and_right, exists_or, exists_eq_left]
    simp only [hlatch]
    split
    next => exact (loaded.drawColumns rfl rfl).congr fun px py _ => step px py
    next hrow =>
      refine loaded.congr fun px py _ => (step px py).trans (or_iff_left ?_)
      rintro ⟨col, _, _, _, hy⟩
      exact hrow (hy ▸ py.isLt)

end Canvas

/-- The closed form of R192 in pixels. -/
theorem toggles_pixel (s : State) (stale : Byte) (x y : Reg) (n : BitVec 4) {px : Nat} (hpx : px < 64) (py : Fin 32) :
    Toggles s stale x y n (py.val * 64 + px) ↔
      SpriteRows s stale (startColumn (s.reg x)) (startRow (s.reg y)) n.toNat px py := by
  constructor
  · rintro ⟨row, col, hrow, hy, hcol, hx, hbit, hk⟩
    refine ⟨row, hrow, col, Nat.lt_succ_of_le hcol, hbit, ?_, ?_⟩
    · show px = (s.reg x).toNat % 64 + col; omega
    · show py.val = (s.reg y).toNat % 32 + row; omega
  · rintro ⟨row, hrow, col, hcol, hbit, hx, hy⟩
    replace hx : px = (s.reg x).toNat % 64 + col := hx
    replace hy : py.val = (s.reg y).toNat % 32 + row := hy
    exact ⟨row, col, hrow, by omega, by omega, by omega, hbit, by rw [hx, hy]⟩

/-- A sprite toggles only cells of the framebuffer. -/
theorem Toggles.lt {s : State} {stale : Byte} {x y : Reg} {n : BitVec 4} {k : Nat} (h : Toggles s stale x y n k) :
    k < 2048 := by
  obtain ⟨row, col, _, _, _, _, _, rfl⟩ := h
  omega

/-- R192: the framebuffer after a draw, cell by cell. -/
theorem State.drawSprite_cell (s : State) (stale : Byte) (x y : Reg) (n : BitVec 4) {k : Nat} (hk : k < 2048) :
    (s.drawSprite stale x y n).graphics.cell k = true ↔ (s.graphics.cell k = true ↔ ¬ Toggles s stale x y n k) := by
  obtain ⟨px, py, hpx, rfl⟩ := exists_pixel_of_lt hk
  rw [Screen.cell_pixel _ hpx, Screen.cell_pixel _ hpx, toggles_pixel s stale x y n hpx]
  exact (Canvas.drawn_drawRows s.graphics s stale ..).pixel px py hpx

/-- R192: the collision flag after a draw. -/
theorem State.drawSprite_flag (s : State) (stale : Byte) (x y : Reg) (n : BitVec 4) :
    ((∃ k, Toggles s stale x y n k ∧ s.graphics.cell k = true) → (s.drawSprite stale x y n).reg vf = 1) ∧
      ((∀ k, Toggles s stale x y n k → s.graphics.cell k = false) → (s.drawSprite stale x y n).reg vf = 0) := by
  have drawn := Canvas.drawn_drawRows s.graphics s stale (startColumn (s.reg x)) (startRow (s.reg y)) n.toNat
  have flag : (s.drawSprite stale x y n).reg vf = flagByte
      ((Canvas.start s.graphics stale).drawRows s (startColumn (s.reg x)) (startRow (s.reg y)) n.toNat).hit :=
    s.reg_setReg_self vf _
  rw [flag]
  constructor
  · rintro ⟨k, hk, hlit⟩
    obtain ⟨px, py, hpx, rfl⟩ := exists_pixel_of_lt hk.lt
    rw [toggles_pixel s stale x y n hpx] at hk
    rw [Screen.cell_pixel _ hpx] at hlit
    rw [drawn.hit.2 ⟨px, py, hpx, hk, hlit⟩]
    rfl
  · intro hdark
    have none_lit := mt drawn.hit.1 fun ⟨px, py, hpx, hk, hlit⟩ => by
      have hcell := hdark _ ((toggles_pixel s stale x y n hpx py).2 hk)
      rw [Screen.cell_pixel _ hpx, hlit] at hcell
      cases hcell
    rw [eq_false_of_ne_true none_lit]
    rfl

/-- Settles O36: the loops of R191 draw each pixel of the closed form once, and no other. -/
theorem drawSpriteClosedForm : Obligations.DrawSpriteClosedForm := by
  refine ⟨fun _ => decode_of_opField_thirteen, fun x y n s =>
    ⟨s.useDraw.drawSprite (Config.stale s.draws) x y n, rfl, rfl, ?_, fun k hk => ?_,
      s.useDraw.drawSprite_flag (Config.stale s.draws) x y n⟩⟩
  · exact sameRegsBut_setReg s.useDraw vf _
  · rw [State.drawSprite_cell _ _ _ _ _ hk]
    show (s.graphics.cell k = true ↔ ¬ Toggles s (Config.stale s.draws) x y n k) ↔ _
    cases s.graphics.cell k <;> simp

/-- With `I` in range no row of a sprite uses the draw. -/
theorem spriteByte_of_lt {s : State} (h : s.i.toNat < 4096) (stale stale' : Byte) (row : Nat) :
    spriteByte s stale row = spriteByte s stale' row := by
  simp only [spriteByte, show s.i.toNat ≤ 4095 by omega, if_true]

/-- A draw with `x` and `y` not `0xF` leaves its own sprite where it was. -/
theorem toggles_congr {s t : State}
    (ht : t = { s with v := t.v, graphics := t.graphics, drawFlag := t.drawFlag, draws := t.draws })
    (hregs : SameRegsBut [vf] s t) {x y : Reg} (hx : x ≠ vf) (hy : y ≠ vf) (hi : s.i.toNat < 4096)
    (stale stale' : Byte) (n : BitVec 4) (k : Nat) : Toggles t stale x y n k ↔ Toggles s stale' x y n k := by
  have byte_eq (row : Nat) : spriteByte t stale row = spriteByte s stale' row := by
    rw [ht]; exact spriteByte_of_lt hi stale stale' row
  simp only [Toggles, byte_eq, hregs x (by simpa using hx), hregs y (by simpa using hy)]

/-- Settles O37: both draws toggle the same cells (O36), so each cell is changed twice or not at all. -/
theorem drawTwiceRestores : Obligations.DrawTwiceRestores := by
  intro x y n s hx hy hi
  obtain ⟨t, ht, t_eq, tregs, tcell, -⟩ := drawSpriteClosedForm.2 x y n s
  obtain ⟨u, hu, -, -, ucell, uflag, -⟩ := drawSpriteClosedForm.2 x y n t
  have same {k : Nat} (stale stale' : Byte) : Toggles t stale x y n k ↔ Toggles s stale' x y n k :=
    toggles_congr (by rw [t_eq]) tregs hx hy hi stale stale' n k
  refine ⟨t, u, ht, hu, Screen.ext_cell fun k hk => ?_, fun ⟨k, hk⟩ hdark => uflag ⟨k, (same _ _).2 hk, ?_⟩⟩
  · have tk := tcell k hk
    have uk := ucell k hk
    rw [same _ (Config.stale s.draws)] at uk
    rw [Bool.eq_iff_iff, uk, ← Bool.not_eq_true, tk]
    by_cases hT : Toggles s (Config.stale s.draws) x y n k <;> simp [hT]
  · exact (tcell k hk.lt).2 (.inr ⟨hdark k hk, (same 0 _).1 ((same 0 0).2 hk)⟩)

end Sys2Proof.Machine


/-! ### What an instruction can write (10_state.md R43) -/

namespace Sys2Proof.Machine

/-- The instructions whose only effect is on `V`, `Fx0A` apart, which may wait. -/
def computes : Instr → Bool
  | .ldImm _ _ | .addImm _ _ | .ldReg _ _ | .orReg _ _ | .andReg _ _ | .xorReg _ _ | .addReg _ _ | .subReg _ _
  | .shr _ _ | .subnReg _ _ | .shl _ _ | .ldFromDelay _ => true
  | _ => false

/-- The instructions whose only effect is on `pc`, `Fx0A` apart. -/
def branches : Instr → Bool
  | .jp _ | .jpV0 _ | .seImm _ _ | .sneImm _ _ | .seReg _ _ | .sneReg _ _ | .skp _ | .sknp _ => true
  | _ => false

/-- The instructions whose only effect is on `I`. -/
def indexes : Instr → Bool
  | .ldI _ | .addI _ | .ldFont _ => true
  | _ => false

/-- What an instruction can do to a state: which components it writes, the values left open where no statement about
every instruction needs them. -/
inductive Effect (s : State) : Instr → State → Prop
  | compute {i : Instr} (hi : computes i = true) (v : Vector Byte 16) : Effect s i { s with v := v }
  | branch {i : Instr} (hi : branches i = true) (w : Word) : Effect s i { s with pc := w }
  | index {i : Instr} (hi : indexes i = true) (w : Word) : Effect s i { s with i := w }
  | clear (g : Screen) : Effect s .cls { s with graphics := g, drawFlag := true }
  | draw (x y : Reg) (n : BitVec 4) (v : Vector Byte 16) (g : Screen) :
    Effect s (.drw x y n) { s with v := v, graphics := g, drawFlag := true, draws := s.draws + 1 }
  | random (x : Reg) (nn : Byte) (v : Vector Byte 16) : Effect s (.rnd x nn) { s with v := v, draws := s.draws + 1 }
  | popped (hsp : s.sp ≠ 0) : Effect s .ret s.pop
  | underflow (hsp : s.sp = 0) : Effect s .ret { s with halt := .faulted .stackUnderflow }
  | pushed (hsp : s.sp ≠ 15) (nnn : BitVec 12) : Effect s (.call nnn) (s.push.setPc (addrImm nnn))
  | overflow (hsp : s.sp = 15) (nnn : BitVec 12) : Effect s (.call nnn) { s with halt := .faulted .stackOverflow }
  | keyTaken (x : Reg) (b : Byte) : Effect s (.ldKey x) (s.setReg x b)
  | keyWait (x : Reg) (w : Word) : Effect s (.ldKey x) { s with pc := w }
  | delay (x : Reg) (b : Byte) : Effect s (.ldDelay x) { s with delayTimer := b }
  | sound (x : Reg) (b : Byte) : Effect s (.ldSound x) { s with soundTimer := b }
  | digits (x : Reg) (m : Memory) (hm : Memory.wf s.params.font s.mem = true → Memory.wf s.params.font m = true) :
    Effect s (.ldBcd x) { s with mem := m }
  | store (x : Reg) (m : Memory) (w : Word)
    (hm : Memory.wf s.params.font s.mem = true → Memory.wf s.params.font m = true) :
    Effect s (.storeRegs x) { s with mem := m, i := w }
  | load (x : Reg) (v : Vector Byte 16) (w : Word) : Effect s (.loadRegs x) { s with v := v, i := w }


/-- The three digits of `Fx33`, from the hundreds down. -/
def digitBytes (b : Byte) : List Byte := [hundreds b, tens b, ones b]

/-- `Fx33` is the three digits stored at ascending addresses. -/
theorem exec_ldBcd (x : Reg) (s : State) :
    exec (.ldBcd x) s = .next (s.storeBytes (s.element 0) (digitBytes (s.reg x))) := rfl

/-- R10: every instruction answers a next state, and does to the state no more than its effect. -/
theorem exec_effect (i : Instr) (s : State) : ∃ t, exec i s = .next t ∧ Effect s i t := by
  cases i with
  | cls => exact ⟨_, rfl, .clear _⟩
  | ret =>
    by_cases hsp : s.sp = 0
    · exact ⟨_, exec_ret_of_eq hsp, .underflow hsp⟩
    · exact ⟨_, exec_ret_of_ne hsp, .popped hsp⟩
  | call nnn =>
    by_cases hsp : s.sp = 15
    · exact ⟨_, exec_call_of_eq hsp nnn, .overflow hsp nnn⟩
    · exact ⟨_, exec_call_of_ne hsp nnn, .pushed hsp nnn⟩
  | ldKey x =>
    cases hk : s.releasedKey with
    | some k => exact ⟨_, exec_ldKey_of_some hk x, .keyTaken x _⟩
    | none => exact ⟨_, exec_ldKey_of_none hk x, .keyWait x _⟩
  | ldImm | addImm | ldReg | orReg | andReg | xorReg | addReg | subReg | shr | subnReg | shl | ldFromDelay =>
    exact ⟨_, rfl, .compute rfl _⟩
  | jp | jpV0 => exact ⟨_, rfl, .branch rfl _⟩
  | seImm | sneImm | seReg | sneReg | skp | sknp =>
    exact ⟨_, congrArg Host.Outcome.next (onlyPc_skipIf s _), .branch rfl _⟩
  | ldI | addI | ldFont => exact ⟨_, rfl, .index rfl _⟩
  | rnd x nn => exact ⟨_, rfl, .random x nn _⟩
  | drw x y n => exact ⟨_, rfl, .draw x y n _ _⟩
  | ldDelay x => exact ⟨_, rfl, .delay x _⟩
  | ldSound x => exact ⟨_, rfl, .sound x _⟩
  | ldBcd x =>
    rw [exec_ldBcd, State.storeBytes_eq]
    exact ⟨_, rfl, .digits x _ (State.storeBytes_wf _ _ s)⟩
  | storeRegs x => exact ⟨_, congrArg Host.Outcome.next (s.bumpI_storeBlock _ x), .store x _ _ (s.storeBlock_wf _)⟩
  | loadRegs x => exact ⟨_, congrArg Host.Outcome.next (s.bumpI_loadBlock _ x), .load x _ _⟩

theorem effect_of_exec {i : Instr} {s t : State} (h : exec i s = .next t) : Effect s i t := by
  obtain ⟨u, hu, heffect⟩ := exec_effect i s
  cases hu.symm.trans h
  exact heffect

/-- Settles O11: the two effects that write `halt` are those of `00EE` and `2nnn`. -/
theorem execAlwaysCompletes : Obligations.ExecAlwaysCompletes := by
  intro i s
  obtain ⟨t, ht, heffect⟩ := exec_effect i s
  refine ⟨t, ht, fun hhalt => ?_⟩
  cases heffect with
  | underflow => exact .inl rfl
  | overflow _ nnn => exact .inr ⟨nnn, rfl⟩
  | _ => exact absurd rfl hhalt

/-- Settles O54, effect by effect: each leaves the components it does not write as they are by definition, and its
instruction stands in the rows of those it does write. -/
theorem accessMatrix : Obligations.AccessMatrix := by
  intro i s t h
  cases effect_of_exec h with
  | compute hi => simp
  | branch hi => cases i <;> simp_all [branches]
  | index hi => cases i <;> simp_all [indexes]
  | _ => simp

/-- What a write of one register tells when some register has changed. -/
theorem eq_of_reg_setReg_ne {s : State} {x r : Reg} {b : Byte} (h : (s.setReg x b).reg r ≠ s.reg r) : x = r :=
  not_not.1 fun hne => h (s.reg_setReg_ne (Ne.symm hne) b)

/-- Settles O55: of the effects that write `V`, the flag writers are listed with any operands, and each other one writes
only the registers that its operand names. -/
theorem flagRegisterWriters : Obligations.FlagRegisterWriters := by
  intro i s t h hne
  cases effect_of_exec h with
  | draw x y n => exact .inr (.inl ⟨x, y, n, rfl⟩)
  | random x nn v =>
    cases h
    cases eq_of_reg_setReg_ne (s := s.useDraw) hne
    exact .inr (.inr (.inl ⟨nn, .inr (.inr rfl)⟩))
  | keyTaken x b =>
    cases eq_of_reg_setReg_ne hne
    exact .inr (.inr (.inr (.inr (.inr (.inl rfl)))))
  | load x v w =>
    rw [← Host.Outcome.next.inj h, State.bumpI, State.reg_setI, s.reg_loadBlock (by omega)] at hne
    have hx : (15 : Nat) < x.val + 1 := not_le.1 fun hle => hne (if_neg (Nat.not_lt.2 hle))
    obtain rfl : x = vf := Fin.ext (show x.val = 15 by omega)
    exact .inr (.inr (.inr (.inr (.inr (.inr rfl)))))
  | compute hi v =>
    cases i with
    | orReg x y | andReg x y | xorReg x y | addReg x y | subReg x y | subnReg x y | shr x y | shl x y =>
      exact .inl ⟨x, y, by simp⟩
    | ldImm x nn | addImm x nn =>
      cases h
      cases eq_of_reg_setReg_ne hne
      exact .inr (.inr (.inl ⟨nn, by simp⟩))
    | ldReg x y =>
      cases h
      cases eq_of_reg_setReg_ne hne
      exact .inr (.inr (.inr (.inl ⟨y, rfl⟩)))
    | ldFromDelay x =>
      cases h
      cases eq_of_reg_setReg_ne hne
      exact .inr (.inr (.inr (.inr (.inl rfl))))
    | _ => cases hi
  | _ => exact absurd rfl hne

/-! #### The three outputs that no instruction reads -/

/-- `s` with other outputs. -/
def State.withOutputs (s : State) (sound : Byte) (draw beep : Bool) : State :=
  { s with soundTimer := sound, drawFlag := draw, soundFlag := beep }

variable (s : State) (sound : Byte) (draw beep : Bool)

theorem State.skipIf_withOutputs (c : Bool) :
    (s.withOutputs sound draw beep).skipIf c = (s.skipIf c).withOutputs sound draw beep := by
  cases c <;> rfl

theorem State.store_withOutputs (a : Nat) (b : Byte) :
    (s.withOutputs sound draw beep).store a b = (s.store a b).withOutputs sound draw beep := by
  unfold State.store
  rw [apply_ite (State.withOutputs · sound draw beep)]
  rfl

theorem State.storeBlock_withOutputs (n : Nat) :
    (s.withOutputs sound draw beep).storeBlock n = (s.storeBlock n).withOutputs sound draw beep := by
  induction n with
  | zero => rfl
  | succ n ih => rw [State.storeBlock, ih, State.store_withOutputs]; rfl

theorem State.loadBlock_withOutputs (n : Nat) :
    (s.withOutputs sound draw beep).loadBlock n = (s.loadBlock n).withOutputs sound draw beep := by
  induction n with
  | zero => rfl
  | succ n ih => rw [State.loadBlock, ih]; rfl

theorem Canvas.drawRows_withOutputs (c : Canvas) (x0 y0 n : Nat) :
    c.drawRows (s.withOutputs sound draw beep) x0 y0 n = c.drawRows s x0 y0 n := by
  induction n with
  | zero => rfl
  | succ n ih => rw [Canvas.drawRows, ih]; rfl

theorem State.drawSprite_withOutputs (stale : Byte) (x y : Reg) (n : BitVec 4) :
    (s.withOutputs sound draw beep).drawSprite stale x y n =
      (s.drawSprite stale x y n).withOutputs sound true beep := by
  unfold State.drawSprite
  rw [Canvas.drawRows_withOutputs]
  rfl

/-- With other outputs an instruction does the same to everything but the outputs. -/
theorem exec_withOutputs (i : Instr) {t : State} (h : exec i s = .next t) :
    ∃ sound' draw' beep', exec i (s.withOutputs sound draw beep) = .next (t.withOutputs sound' draw' beep') := by
  cases i with
  | cls => cases h; exact ⟨sound, true, beep, rfl⟩
  | drw x y n =>
    cases h
    exact ⟨sound, true, beep, congrArg Host.Outcome.next (State.drawSprite_withOutputs s.useDraw ..)⟩
  | ldSound x => cases h; exact ⟨s.reg x, draw, beep, rfl⟩
  | ret =>
    refine ⟨sound, draw, beep, ?_⟩
    by_cases hsp : s.sp = 0
    · cases (exec_ret_of_eq hsp).symm.trans h
      exact exec_ret_of_eq (s := s.withOutputs sound draw beep) hsp
    · cases (exec_ret_of_ne hsp).symm.trans h
      exact exec_ret_of_ne (s := s.withOutputs sound draw beep) hsp
  | call nnn =>
    refine ⟨sound, draw, beep, ?_⟩
    by_cases hsp : s.sp = 15
    · cases (exec_call_of_eq hsp nnn).symm.trans h
      exact exec_call_of_eq (s := s.withOutputs sound draw beep) hsp nnn
    · cases (exec_call_of_ne hsp nnn).symm.trans h
      exact exec_call_of_ne (s := s.withOutputs sound draw beep) hsp nnn
  | ldKey x =>
    refine ⟨sound, draw, beep, ?_⟩
    cases hk : s.releasedKey with
    | some k =>
      cases (exec_ldKey_of_some hk x).symm.trans h
      exact exec_ldKey_of_some (s := s.withOutputs sound draw beep) hk x
    | none =>
      cases (exec_ldKey_of_none hk x).symm.trans h
      exact exec_ldKey_of_none (s := s.withOutputs sound draw beep) hk x
  | seImm | sneImm | seReg | sneReg | skp | sknp =>
    cases h
    exact ⟨sound, draw, beep, congrArg Host.Outcome.next (s.skipIf_withOutputs ..)⟩
  | ldBcd x =>
    cases h
    exact ⟨sound, draw, beep, by rw [exec, execLdBcd]; simp only [State.store_withOutputs]; rfl⟩
  | storeRegs x =>
    cases h
    exact ⟨sound, draw, beep, by rw [exec, execStoreRegs, State.storeBlock_withOutputs]; rfl⟩
  | loadRegs x =>
    cases h
    exact ⟨sound, draw, beep, by rw [exec, execLoadRegs, State.loadBlock_withOutputs]; rfl⟩
  | _ => cases h; exact ⟨sound, draw, beep, rfl⟩

/-- Settles O56: the second state is the first with other outputs. -/
theorem outputsAreNeverRead : Obligations.OutputsAreNeverRead := by
  intro i s t u v hu ht hv
  obtain ⟨sound', draw', beep', h⟩ := exec_withOutputs s u.soundTimer u.drawFlag u.soundFlag i ht
  rw [State.withOutputs, ← hu] at h
  cases hv.symm.trans h
  rfl

end Sys2Proof.Machine


/-! ### The invariant of the machine -/

namespace Sys2Proof.Machine

/-- In a running core the clauses of the invariant about a latched fault say nothing. -/
theorem Inv.of_running {s : State} (hr : s.halt = .running) (memory : Memory.wf s.params.font s.mem = true)
    (params : s.params.wf = true) (position : ∀ k, s.phase = .burst k → k < s.params.burst)
    (bottomSlot : s.stack[0] = 0) : Inv s where
  memory := memory
  params := params
  position := position
  bottomSlot := bottomSlot
  underflow h := nomatch hr.symm.trans h
  overflow h := nomatch hr.symm.trans h
  faultInRun h := absurd hr h

/-- Settles O58: the reset core runs, stands still, and has nothing listed in memory. -/
theorem invariantAtReset : Obligations.InvariantAtReset :=
  .of_running rfl rfl rfl (fun _ h => nomatch h) rfl

/-- The host's plan is no part of the invariant. -/
theorem Inv.with_hostPlan {s : State} (h : Inv s) (plan : List HostEvent) : Inv { s with hostPlan := plan } :=
  { h with }

/-- R232: one more step of a burst stays inside it. -/
theorem Phase.lt_of_afterStep {p : Phase} {burst : Nat} (hp : ∀ k, p = .burst k → k < burst) (k : Nat)
    (h : p.afterStep burst = .burst k) : k < burst := by
  cases p with
  | burst j =>
    simp only [Phase.afterStep] at h
    split at h
    next hj => cases h; exact hj
    next => cases h
  | _ => cases h

/-- Fetch and advance keep the invariant of a running core. -/
theorem Inv.fetchAdvance {s : State} (h : Inv s) (hr : s.halt = .running) : Inv s.fetchAdvance :=
  .of_running hr h.memory h.params (Phase.lt_of_afterStep h.position) h.bottomSlot

/-- An instruction keeps the invariant; a fault is latched with its word in `opcode`, which says what it is. -/
theorem Inv.effect {s t : State} {i : Instr} (h : Inv s) (hr : s.halt = .running) (hop : encode i = s.opcode)
    (hrun : s.phase ≠ .boot) (heffect : Effect s i t) : Inv t := by
  cases heffect with
  | pushed hsp nnn =>
    refine .of_running hr h.memory h.params h.position ?_
    have hne : (s.sp + 1).toNat ≠ 0 := fun h0 => push_sp_ne_zero hsp (BitVec.eq_of_toNat_eq h0)
    exact (Vector.getElem_set_ne (s.sp + 1).isLt (by decide) hne).trans h.bottomSlot
  | underflow hsp =>
    exact { h with
      underflow := fun _ => ⟨hsp, hop.symm⟩
      overflow := fun hh => nomatch hh
      faultInRun := fun _ => hrun }
  | overflow hsp nnn =>
    exact { h with
      underflow := fun hh => nomatch hh
      overflow := fun _ => ⟨hsp, hop ▸ opField_layoutNNN 0x2 nnn⟩
      faultInRun := fun _ => hrun }
  | digits x m hm => exact .of_running hr (hm h.memory) h.params h.position h.bottomSlot
  | store x m w hm => exact .of_running hr (hm h.memory) h.params h.position h.bottomSlot
  | _ => exact .of_running hr h.memory h.params h.position h.bottomSlot

/-- An instruction step inside a burst keeps the invariant. -/
theorem Inv.instructionStep {s t : State} {k : Nat} (h : Inv s) (hr : s.halt = .running) (hp : s.phase = .burst k)
    (ht : instructionStep s = .next t) : Inv t := by
  obtain ⟨i, hi, hstep⟩ | ⟨u, -, hstep⟩ := instructionStep_cases s
  · have hrun : s.fetchAdvance.phase ≠ .boot := by
      rw [State.fetchAdvance_phase, hp, Phase.afterStep]
      split <;> exact Phase.noConfusion
    exact (h.fetchAdvance hr).effect hr (encodeOfDecode _ i hi) hrun (effect_of_exec (hstep.symm.trans ht))
  · cases hstep.symm.trans ht
    exact h.fetchAdvance hr

/-- An action of the core keeps the invariant. -/
theorem Inv.coreAction {s t : State} (h : Inv s) (ht : coreAction s = .next t) : Inv t := by
  obtain ⟨hr, ⟨-, rfl⟩ | ⟨-, rfl⟩ | ⟨⟨k, hp⟩, hstep⟩ | ⟨-, rfl⟩ | ⟨-, rfl⟩⟩ := coreAction_cases ht
  · exact h
  · refine .of_running hr h.memory h.params (fun k hk => ?_) h.bottomSlot
    cases hk
    exact of_decide_eq_true h.params
  · exact h.instructionStep hr hp hstep
  · exact .of_running hr h.memory h.params (fun _ hk => nomatch hk) h.bottomSlot
  · exact .of_running hr h.memory h.params (fun _ hk => nomatch hk) h.bottomSlot

/-- A host operation keeps the invariant. -/
theorem Inv.hostOp {s t : State} {op : HostOp} (h : Inv s) (ht : hostOp op s = .next t) : Inv t := by
  obtain rfl | ⟨-, rfl⟩ | ⟨bytes, -, -, -, rfl⟩ | ⟨k, b, rfl⟩ := hostOp_cases ht
  · exact .of_running rfl rfl h.params (fun _ hk => nomatch hk) rfl
  · unfold hostCycle
    split
    next hc => exact .of_running hc.1 h.memory h.params (fun _ hk => nomatch hk) h.bottomSlot
    next => exact h
  · rw [State.storeBytes_eq]
    exact { h with memory := State.storeBytes_wf _ _ s h.memory }
  · exact { h with }

/-- Settles O59: a step is a host operation or an action of the core, and both keep the invariant. -/
theorem invariantKept : Obligations.InvariantKept := by
  intro s t h ht
  obtain ⟨op, u, hturn, hop⟩ | ⟨-, hcore⟩ := step_cases ht
  · rw [hostTurn_frame hturn] at hop
    exact (h.with_hostPlan u.hostPlan).hostOp hop
  · rw [hostWait_eq] at hcore
    exact (h.with_hostPlan _).coreAction hcore

end Sys2Proof.Machine


/-! ### The step of the whole machine (30_encoding.md R94, 45_cycle_driver.md R230, R241) -/

namespace Sys2Proof.Machine

theorem step_of_turn {s u : State} {op : HostOp} (h : hostTurn s = some (op, u)) : step s = hostOp op u := by
  rw [step, h]

theorem step_of_no_turn {s : State} (h : hostTurn s = none) :
    step s = coreAction { s with hostPlan := (hostWait s).hostPlan } := by
  rw [step, h, ← hostWait_eq]

/-! What the core does next, phase by phase (R230). -/

section
variable {s : State} (hr : s.halt = .running)
include hr

theorem coreAction_of_standsStill (hp : s.phase.standsStill = true) : coreAction s = .next s := by
  cases h : s.phase with
  | boot | idle => simp only [coreAction, hr, h]
  | _ => rw [h] at hp; cases hp

theorem coreAction_of_flagReset (hp : s.phase = .flagReset) : coreAction s = .next (phaseA s) := by
  simp only [coreAction, hr, hp]

theorem coreAction_of_burst {k : Nat} (hp : s.phase = .burst k) : coreAction s = instructionStep s := by
  simp only [coreAction, hr, hp]

theorem coreAction_of_timers (hp : s.phase = .timers) : coreAction s = .next (phaseC s) := by
  simp only [coreAction, hr, hp]

theorem coreAction_of_snapshot (hp : s.phase = .snapshot) : coreAction s = .next (phaseD s) := by
  simp only [coreAction, hr, hp]

end

theorem coreAction_of_faulted {s : State} {f : Fault} (h : s.halt = .faulted f) : coreAction s = .fault f := by
  simp only [coreAction, h]

/-- R252: with no host operation to come a faulted core stops. -/
theorem step_of_faulted {s : State} {f : Fault} (hturn : hostTurn s = none) (hf : s.halt = .faulted f) :
    step s = .fault f :=
  (step_of_no_turn hturn).trans (coreAction_of_faulted (s := { s with hostPlan := (hostWait s).hostPlan }) hf)

theorem Halt.exists_faulted {h : Halt} (hne : h ≠ .running) : ∃ f, h = .faulted f := by
  cases h with
  | running => exact absurd rfl hne
  | faulted f => exact ⟨f, rfl⟩

theorem instructionStep_of_ok {s : State} {i : Instr} (h : decode s.fetched = .ok i) :
    instructionStep s = exec i s.fetchAdvance := by
  rw [instructionStep, State.fetchAdvance_opcode, h]

theorem instructionStep_of_error {s : State} {u : Undefined} (h : decode s.fetched = .error u) :
    instructionStep s = .next s.fetchAdvance := by
  rw [instructionStep, State.fetchAdvance_opcode, h]; rfl

/-- R10: an instruction step answers a next state. -/
theorem exists_instructionStep (s : State) : ∃ t, instructionStep s = .next t := by
  obtain ⟨i, -, h⟩ | ⟨u, -, h⟩ := instructionStep_cases s
  · obtain ⟨t, ht, -⟩ := exec_effect i s.fetchAdvance
    exact ⟨t, h.trans ht⟩
  · exact ⟨_, h⟩

/-- A running core answers a next state. -/
theorem exists_coreAction {s : State} (hr : s.halt = .running) : ∃ t, coreAction s = .next t := by
  cases hp : s.phase with
  | boot | idle => exact ⟨s, coreAction_of_standsStill hr (by rw [hp]; rfl)⟩
  | flagReset => exact ⟨_, coreAction_of_flagReset hr hp⟩
  | burst k => rw [coreAction_of_burst hr hp]; exact exists_instructionStep s
  | timers => exact ⟨_, coreAction_of_timers hr hp⟩
  | snapshot => exact ⟨_, coreAction_of_snapshot hr hp⟩

/-- A step inside a burst runs the instruction step, one action counted for the host's plan. -/
theorem step_in_burst {s : State} {k : Nat} (hturn : hostTurn s = none) (hr : s.halt = .running)
    (hp : s.phase = .burst k) : step s = instructionStep { s with hostPlan := (hostWait s).hostPlan } :=
  (step_of_no_turn hturn).trans (coreAction_of_burst hr hp)

/-- A step inside a burst whose fetched word decodes (R94). -/
theorem step_of_decode {s : State} {k : Nat} {i : Instr} (hturn : hostTurn s = none) (hr : s.halt = .running)
    (hp : s.phase = .burst k) (hi : decode s.fetched = .ok i) :
    step s = exec i { s with
      opcode := s.fetched
      pc := s.pc + 2
      phase := s.phase.afterStep s.params.burst
      hostPlan := (hostWait s).hostPlan } :=
  (step_in_burst hturn hr hp).trans (instructionStep_of_ok (s := { s with hostPlan := (hostWait s).hostPlan }) hi)

/-- Settles O8: the step is the instruction step (R94), whose position in the burst is `k`. -/
theorem stepRunsDecodedInstruction : Obligations.StepRunsDecodedInstruction := by
  intro s k i hturn hr hp hi
  rw [step_of_decode hturn hr hp hi, hp, Phase.afterStep]

/-- Settles O9: the step is fetch and advance. -/
theorem stepUndefinedIsNoop : Obligations.StepUndefinedIsNoop := fun s _ _ hturn hr hp hu =>
  ⟨_, (step_in_burst hturn hr hp).trans
    (instructionStep_of_error (s := { s with hostPlan := (hostWait s).hostPlan }) hu), rfl⟩

/-- Settles O47: the step is the execute stage of the faulting instruction after fetch and advance (R94). -/
theorem faultEntryIsPrecise : Obligations.FaultEntryIsPrecise := by
  intro s k hturn hr hp
  constructor
  · intro hi hsp
    refine ⟨_, (step_of_decode hturn hr hp hi).trans (exec_ret_of_eq ?_), rfl⟩
    exact hsp
  · intro nnn hi hsp
    refine ⟨_, (step_of_decode hturn hr hp hi).trans (exec_call_of_eq ?_ nnn), rfl⟩
    exact hsp

/-- Settles O41: the action of the core in that phase is `phaseA`. -/
theorem phaseAClearsFlags : Obligations.PhaseAClearsFlags := fun _ hturn hr hp =>
  ⟨_, (step_of_no_turn hturn).trans (coreAction_of_flagReset hr hp), rfl⟩

/-- R233, D12: phase C sets `sound_flag` when the timer it finds is above 0, and else leaves it. -/
theorem phaseC_soundFlag (s : State) : (phaseC s).soundFlag = (s.soundFlag || decide (0 < s.soundTimer.toNat)) := by
  have nonzero : (s.soundTimer != 0) = decide (0 < s.soundTimer.toNat) := by
    rw [Bool.eq_iff_iff, bne_iff_ne, decide_eq_true_iff]
    bv_omega
  rw [phaseC, nonzero]

/-- Settles O42: the action of the core in that phase is `phaseC`, whose flag is set from the timer it finds. -/
theorem phaseCTicksTimers : Obligations.PhaseCTicksTimers := by
  intro s hturn hr hp
  refine ⟨_, (step_of_no_turn hturn).trans (coreAction_of_timers hr hp), fun hpos => ?_, fun hzero => ?_,
    toNat_tickTimer _, toNat_tickTimer _, rfl⟩
  · rw [phaseC_soundFlag, decide_eq_true hpos, Bool.or_true]
  · rw [phaseC_soundFlag, decide_eq_false (by simp [hzero]), Bool.or_false]

/-- Settles O43: the action of the core in that phase is `phaseD`. -/
theorem phaseDSnapshotsKeys : Obligations.PhaseDSnapshotsKeys := fun _ hturn hr hp =>
  ⟨_, (step_of_no_turn hturn).trans (coreAction_of_snapshot hr hp), fun _ => rfl, rfl⟩

/-! ### Whose turn it is (R241, log 7, log 15) -/

/-- The head of the plan, where it comes now, is the host's turn. -/
theorem hostTurn_cons_of_comesNow {s : State} {e : HostEvent} {rest : List HostEvent} (hplan : s.hostPlan = e :: rest)
    (h : e.comesNow s = true) : hostTurn s = some (e.op, { s with hostPlan := rest }) := by
  simp only [hostTurn, plannedTurn, hplan, h, if_true]

theorem hostTurn_cons_of_not_comesNow {s : State} {e : HostEvent} {rest : List HostEvent}
    (hplan : s.hostPlan = e :: rest) (h : ¬ e.comesNow s = true) :
    hostTurn s = if s.cycleRequested then some (.cycle, s) else none := by
  simp only [hostTurn, plannedTurn, hplan, if_neg h]

theorem cycleRequested_of_faulted {s : State} (h : s.halt ≠ .running) : s.cycleRequested = false :=
  eq_false_of_ne_true fun hc => h (s.cycleRequested_iff.1 hc).2.1

theorem cycleRequested_of_busy {s : State} (h : s.phase.standsStill = false) : s.cycleRequested = false :=
  eq_false_of_ne_true fun hc => absurd (s.cycleRequested_iff.1 hc).2.2 (by simp [h])

theorem hostWait_cons {s : State} {e : HostEvent} {rest : List HostEvent} (hplan : s.hostPlan = e :: rest) :
    hostWait s = { s with hostPlan := { e with wait := e.wait - 1 } :: rest } := by
  simp only [hostWait, hplan]

theorem hostWait_nil {s : State} (hplan : s.hostPlan = []) : hostWait s = s := by
  simp only [hostWait, hplan]

/-- A faulted core with an operation planned is the host's. -/
theorem hostPlan_eq_nil_of_no_turn {s : State} (hf : s.halt ≠ .running) (h : hostTurn s = none) : s.hostPlan = [] := by
  cases hplan : s.hostPlan with
  | nil => rfl
  | cons e rest =>
    cases (hostTurn_cons_of_comesNow hplan ((e.comesNow_iff s).2 (.inl hf))).symm.trans h

/-- Settles O53, by whether the operation comes now and whether the host requests a cycle. -/
theorem hostActsBetweenActions : Obligations.HostActsBetweenActions := by
  intro s e rest hplan
  refine ⟨fun hwait hcycle => ?_, fun hlater hr hbusy => ?_, fun hwait hr hstill => ?_⟩
  · exact step_of_turn (hostTurn_cons_of_comesNow hplan ((e.comesNow_iff s).2 (.inr ⟨hwait, hcycle⟩)))
  · have hlater : ¬ e.comesNow s = true := by
      rw [e.comesNow_iff]
      rintro (hf | ⟨hwait, hcycle⟩)
      · exact hf hr
      · rcases hlater with hpos | hop
        · omega
        · exact absurd (hcycle hop) (by simp [hbusy])
    rw [step, hostTurn_cons_of_not_comesNow hplan hlater, cycleRequested_of_busy hbusy]
    exact congrArg coreAction (hostWait_cons hplan)
  · have hlater : ¬ e.comesNow s = true := by
      rw [e.comesNow_iff]
      rintro (hf | ⟨h0, -⟩)
      · exact hf hr
      · omega
    rw [step, hostTurn_cons_of_not_comesNow hplan hlater]
    by_cases hreq : s.hostCycles = true
    · rw [if_pos hreq, if_pos (s.cycleRequested_iff.2 ⟨hreq, hr, hstill⟩)]
    · rw [if_neg hreq, if_neg fun h => hreq (s.cycleRequested_iff.1 h).1, hostWait_cons hplan]
      exact coreAction_of_standsStill hr hstill

/-! ### The placed word (log 2) -/

/-- R61: a word is the big-endian pair of its bytes. -/
theorem wordOfBytes_highByte_lowByte (w : Word) : wordOfBytes (highByte w) (lowByte w) = w :=
  (BitVec.extractLsb'_append_extractLsb'_eq_extractLsb' rfl).trans BitVec.extractLsb'_eq_self

theorem State.withFetchWord_toNat (s : State) (w : Word) : s.withFetchWord 16 w.toNat = s.placeWord w := by
  rw [State.withFetchWord, Nat.mod_eq_of_lt w.isLt, BitVec.ofNat_toNat, BitVec.setWidth_eq]

theorem State.placeWord_pc (s : State) (w : Word) : (s.placeWord w).pc = s.pc := by
  unfold State.placeWord; split <;> simp

theorem State.placeWord_params (s : State) (w : Word) : (s.placeWord w).params = s.params := by
  unfold State.placeWord; split <;> simp

theorem State.placeWord_hostPlan (s : State) (w : Word) :
    (s.placeWord w).hostPlan = s.hostPlan.dropWhile fun e => e.wait == 0 && e.op != .cycle := rfl

theorem State.placeWord_phase (s : State) (w : Word) : ∃ k, (s.placeWord w).phase = .burst k := by
  unfold State.placeWord; split
  all_goals cases s.phase <;> exact ⟨_, rfl⟩

/-- The placed word is the one fetched: from memory where the fetch guard holds, and else from `opcode` (R95). -/
theorem State.placeWord_fetched (s : State) (w : Word) : (s.placeWord w).fetched = w := by
  have hpc := s.placeWord_pc w
  by_cases hguard : s.pc.toNat + 1 < 4096
  · have load?_eq (a : Nat) : (s.placeWord w).load? a =
        ((s.store s.pc.toNat (highByte w)).store (s.pc.toNat + 1) (lowByte w)).load? a := by
      apply State.load?_congr
      · simp only [State.placeWord, Config.memSize, if_pos hguard]
      · rw [s.placeWord_params, State.store_params, State.store_params]
    have hhigh : (s.placeWord w).load? s.pc.toNat = some (highByte w) := by
      rw [load?_eq, State.load?_store_ne _ (by omega), State.load?_store_self _ (by omega)]
    have hlow : (s.placeWord w).load? (s.pc.toNat + 1) = some (lowByte w) := by
      rw [load?_eq, State.load?_store_self _ hguard]
    simp only [State.fetched, hpc, hhigh, hlow]
    exact wordOfBytes_highByte_lowByte w
  · rw [State.fetched_of_ge _ (by rw [hpc]; omega)]
    simp only [State.placeWord, if_neg hguard]

/-- No host operation comes before the placed word runs. -/
theorem State.placeWord_turn (s : State) (w : Word) : hostTurn (s.placeWord w) = none := by
  obtain ⟨k, hp⟩ := s.placeWord_phase w
  have busy : (s.placeWord w).phase.standsStill = false := by rw [hp]; rfl
  cases hplan : (s.placeWord w).hostPlan with
  | nil => exact hostTurn_nil _ hplan (cycleRequested_of_busy busy)
  | cons e rest =>
    have head_kept := List.head?_dropWhile_not (fun e : HostEvent => e.wait == 0 && e.op != .cycle) s.hostPlan
    rw [← s.placeWord_hostPlan w, hplan] at head_kept
    have hlater : ¬ e.comesNow (s.placeWord w) = true := by
      rw [e.comesNow_iff]
      rintro (hf | ⟨hwait, hcycle⟩)
      · exact hf rfl
      · have hop : e.op ≠ .cycle := fun hop => absurd (hcycle hop) (by simp [busy])
        simp [hwait, hop] at head_kept
    rw [hostTurn_cons_of_not_comesNow hplan hlater, cycleRequested_of_busy busy]
    rfl

/-- Settles O10: after the placement the core is at an instruction step that fetches the word. -/
theorem placedWordRunsNext : Obligations.PlacedWordRunsNext := by
  intro s w i hi
  rw [s.withFetchWord_toNat w]
  have hfetched := s.placeWord_fetched w
  obtain ⟨k, hp⟩ := s.placeWord_phase w
  refine ⟨hfetched, s.placeWord_pc w, ?_⟩
  rw [step_of_decode (s.placeWord_turn w) rfl hp (hfetched.symm ▸ hi), hfetched, s.placeWord_pc, s.placeWord_params]

/-! ### Faults and stops (60_exceptions.md R252) -/

/-- Settles O48, by the host's operations: `Cycle` does nothing there, and the invariant excludes `Load`, whose phase is
`boot`. -/
theorem faultedUntilReset : Obligations.FaultedUntilReset := by
  intro s f hinv hf
  have hne : s.halt ≠ .running := by rw [hf]; exact Halt.noConfusion
  constructor
  · intro hplan
    exact step_of_faulted (hostTurn_nil s hplan (cycleRequested_of_faulted hne)) hf
  · intro t ht
    obtain ⟨op, u, hturn, hop⟩ | ⟨-, hcore⟩ := step_cases ht
    · have hu := hostTurn_frame hturn
      rw [hu] at hop
      obtain rfl | ⟨-, rfl⟩ | ⟨_, -, hboot, -, -⟩ | ⟨k, b, rfl⟩ := hostOp_cases hop
      · exact .inl rfl
      · rw [hostCycle_of_faulted _ (by exact hne)]; exact .inr rfl
      · exact absurd hboot (hinv.faultInRun hne)
      · exact .inr rfl
    · rw [hostWait_eq] at hcore
      exact absurd (coreAction_cases hcore).1 hne

/-- The host's operations never stop the machine with a fault, and only a `Load` is refused (R238, R239). -/
theorem hostOp_ne_fault (op : HostOp) (s : State) (f : Fault) : hostOp op s ≠ .fault f := by
  intro h
  cases op with
  | load bytes =>
    simp only [hostOp, loadImage] at h
    split_ifs at h
  | _ => cases h

theorem hostOp_eq_refused {op : HostOp} {s : State} {r : Refusal} (h : hostOp op s = .refused r) :
    ∃ bytes, op = .load bytes ∧
      (s.phase ≠ .boot ∧ r = .loadDuringRun ∨ s.phase = .boot ∧ 3584 < bytes.length ∧ r = .imageTooLong) := by
  cases op with
  | load bytes =>
    refine ⟨bytes, rfl, ?_⟩
    simp only [hostOp, loadImage] at h
    split_ifs at h with hp hfits
    · cases h; exact .inl ⟨hp, rfl⟩
    · cases h; exact .inr ⟨not_not.1 hp, by simpa [imageFits] using hfits, rfl⟩
  | _ => cases h

/-- Settles O49: a running core always answers a next state, so a fault is a faulted core's and a refusal a `Load`'s. -/
theorem stopsOnlyWhenFaulted : Obligations.StopsOnlyWhenFaulted := by
  intro s
  cases hturn : hostTurn s with
  | some turn =>
    obtain ⟨op, u⟩ := turn
    rw [step_of_turn hturn]
    refine ⟨fun f h => absurd h (hostOp_ne_fault op u f), fun r h => ?_⟩
    obtain ⟨bytes, rfl, hwhy⟩ := hostOp_eq_refused h
    rw [hostTurn_frame hturn] at hwhy
    exact ⟨bytes, u, rfl, hwhy⟩
  | none =>
    by_cases hr : s.halt = .running
    · obtain ⟨t, ht⟩ := exists_coreAction (s := { s with hostPlan := (hostWait s).hostPlan }) hr
      rw [step_of_no_turn hturn, ht]
      exact ⟨fun f h => (nomatch h), fun r h => (nomatch h)⟩
    · obtain ⟨g, hg⟩ := Halt.exists_faulted hr
      rw [step_of_faulted hturn hg]
      refine ⟨fun f h => ?_, fun r h => (nomatch h)⟩
      cases h
      exact ⟨hg, hostPlan_eq_nil_of_no_turn hr hturn⟩

end Sys2Proof.Machine


/-! ### Reset and Load (70_reset_and_hazards.md R280, 45_cycle_driver.md R239) -/

namespace Sys2Proof.Machine

/-- R28: memory with nothing listed is the font and zeros. -/
theorem State.load?_of_mem_nil {s : State} (h : s.mem = []) {a : Nat} (ha : a < 4096) :
    s.load? a = some (Memory.unlisted s.params.font a) := by
  rw [s.load?_of_lt ha, h]; rfl

/-- Settles O50: memory with nothing listed reads as its reset contents, and the other components are constants. -/
theorem resetState : Obligations.ResetState := by
  intro s
  refine ⟨hostReset s, rfl, fun a => ?_, fun a hfont ha => ?_, fun r => ?_, rfl, rfl, rfl, fun k => ?_,
    fun k _ => Screen.cell_replicate_zero k, fun k => ⟨?_, ?_⟩, rfl, rfl, rfl, rfl, rfl, rfl⟩
  · rw [State.load?_of_mem_nil rfl (by omega)]
    exact congrArg some (dif_pos a.isLt)
  · rw [State.load?_of_mem_nil rfl ha]
    exact congrArg some (dif_neg (Nat.not_lt.2 hfont))
  · exact Vector.getElem_replicate _
  · exact Vector.getElem_replicate _
  · exact Vector.getElem_replicate _
  · exact Vector.getElem_replicate _

/-- The bytes of a sequence that ends inside memory, read back. -/
theorem State.load?_storeBytes (bs : List Byte) (a : Nat) (s : State) (hend : a + bs.length ≤ 4096) (b : Nat) :
    (s.storeBytes a bs).load? b = if a ≤ b ∧ b < a + bs.length then bs[b - a]? else s.load? b := by
  induction bs generalizing a s with
  | nil => rw [if_neg (by simp)]; rfl
  | cons v bs ih =>
    rw [List.length_cons] at hend ⊢
    rw [State.storeBytes, ih (a + 1) (s.store a v) (by omega)]
    by_cases hb : b = a
    · rw [if_neg (by omega), if_pos (by omega), hb, s.load?_store_self (by omega), Nat.sub_self]
      rfl
    · rw [s.load?_store_ne hb]
      by_cases hin : a + 1 ≤ b ∧ b < a + 1 + bs.length
      · rw [if_pos hin, if_pos (by omega), show b - a = b - (a + 1) + 1 by omega]
        rfl
      · rw [if_neg hin, if_neg (by omega)]

/-- Settles O51: an image that fits ends inside memory, so every one of its bytes is stored. -/
theorem loadWritesTheImage : Obligations.LoadWritesTheImage := by
  intro bytes s hp
  have hnot : ¬ s.phase ≠ .boot := not_not.2 hp
  constructor
  · intro hfits
    refine ⟨s.storeBytes 0x200 bytes, ?_, State.storeBytes_eq .., fun j hj => ?_, fun a ha => ?_⟩
    · simp only [hostOp, loadImage, if_neg hnot, imageFits, decide_eq_true hfits, if_true]
    · rw [State.load?_storeBytes _ _ _ (by omega), if_pos (by omega), Nat.add_sub_cancel_left]
    · rw [State.load?_storeBytes _ _ _ (by omega), if_neg (by omega)]
  · intro hlong
    simp [hostOp, loadImage, hp, imageFits, hlong]

end Sys2Proof.Machine


/-! ### The cycle (45_cycle_driver.md R230 to R237, R242, R263) -/

namespace Sys2Proof.Machine

/-! A run of actions, and of steps of the whole machine, unfolded by one. -/

theorem runActions_succ {s t : State} (h : coreAction s = .next t) (n : Nat) :
    runActions (n + 1) s = runActions n t := by
  rw [runActions, h]

theorem runActions_of_faulted {s : State} (h : s.halt ≠ .running) (n : Nat) : runActions n s = s := by
  obtain ⟨f, hf⟩ := Halt.exists_faulted h
  cases n with
  | zero => rfl
  | succ n => rw [runActions, coreAction_of_faulted hf]

theorem engineSteps_succ {s t : State} (hr : s.halt = .running) (h : instructionStep s = .next t) (k : Nat) :
    engineSteps (k + 1) s = engineSteps k t := by
  rw [engineSteps, hr, h]

theorem engineSteps_of_faulted {s : State} (h : s.halt ≠ .running) (k : Nat) : engineSteps k s = s := by
  obtain ⟨f, hf⟩ := Halt.exists_faulted h
  cases k with
  | zero => rfl
  | succ k => rw [engineSteps, hf]

theorem machineSteps_succ {s t : State} (h : step s = .next t) (n : Nat) :
    machineSteps (n + 1) s = machineSteps n t := by
  rw [machineSteps, h]

theorem machineSteps_of_faulted {s : State} (h : s.halt ≠ .running) (hplan : s.hostPlan = []) (n : Nat) :
    machineSteps n s = s := by
  obtain ⟨f, hf⟩ := Halt.exists_faulted h
  cases n with
  | zero => rfl
  | succ n => rw [machineSteps, step_of_faulted (hostTurn_nil s hplan (cycleRequested_of_faulted h)) hf]

/-- An instruction step moves the phase on by one step of the burst, and writes neither the parameters nor the host's
plan. -/
theorem instructionStep_frame {s t : State} (h : instructionStep s = .next t) :
    t.phase = s.phase.afterStep s.params.burst ∧ t.params = s.params ∧ t.hostPlan = s.hostPlan := by
  obtain ⟨i, -, hi⟩ | ⟨u, -, hu⟩ := instructionStep_cases s
  · obtain ⟨-, -, -, -, hparams, hphase, hplan, -⟩ := (accessMatrix i _ t (hi.symm.trans h)).1
    exact ⟨hphase, hparams, hplan⟩
  · cases hu.symm.trans h
    exact ⟨rfl, rfl, rfl⟩

/-- The phase in which `m` instruction steps of a burst are still to come. -/
def Phase.stepsLeft (burst : Nat) : Nat → Phase
  | 0 => .timers
  | m + 1 => .burst (burst - (m + 1))

theorem Phase.afterStep_stepsLeft {burst m : Nat} (hm : m + 1 ≤ burst) :
    (Phase.stepsLeft burst (m + 1)).afterStep burst = .stepsLeft burst m := by
  cases m with
  | zero => exact if_neg (by show ¬ burst - 1 + 1 < burst; omega)
  | succ m =>
    rw [stepsLeft, afterStep, if_pos (by omega), stepsLeft]
    congr 1
    omega

/-- The rest of a cycle from inside its burst: the steps left, then phases C and D if none of them faults. -/
theorem runActions_burst {m : Nat} {s : State} (hr : s.halt = .running) (hm : m ≤ s.params.burst)
    (hp : s.phase = .stepsLeft s.params.burst m) :
    ((engineSteps m s).halt = .running → runActions (m + 2) s = phaseD (phaseC (engineSteps m s))) ∧
      ((engineSteps m s).halt ≠ .running → runActions (m + 2) s = engineSteps m s) := by
  induction m generalizing s with
  | zero =>
    refine ⟨fun _ => ?_, fun h => absurd hr h⟩
    rw [runActions_succ (coreAction_of_timers hr hp), runActions_succ (coreAction_of_snapshot (s := phaseC s) hr rfl)]
    rfl
  | succ m ih =>
    obtain ⟨t, ht⟩ := exists_instructionStep s
    obtain ⟨tphase, tparams, -⟩ := instructionStep_frame ht
    rw [engineSteps_succ hr ht, runActions_succ ((coreAction_of_burst hr hp).trans ht)]
    by_cases tr : t.halt = .running
    · refine ih tr (by rw [tparams]; omega) ?_
      rw [tphase, tparams, hp, Phase.afterStep_stepsLeft hm]
    · rw [engineSteps_of_faulted tr, runActions_of_faulted tr]
      exact ⟨fun h => absurd h tr, fun _ => rfl⟩

/-- A request in a core that stands still runs phase A and the burst after it. -/
theorem cycle_of_standsStill {s : State} (hr : s.halt = .running) (hp : s.phase.standsStill = true) :
    cycle s = runActions (s.params.burst + 2) (phaseA s) := by
  rw [cycle, hostCycle_of_standsStill s hr hp]
  exact runActions_succ (coreAction_of_flagReset (s := { s with phase := .flagReset }) hr rfl) _

/-- Settles O44: phase A, and then the burst with all of its steps left. -/
theorem cycleIsItsPhases : Obligations.CycleIsItsPhases := by
  intro s hwf
  refine ⟨fun hr hp => ?_, fun hf => ?_⟩
  · rw [cycle_of_standsStill hr hp]
    refine runActions_burst (s := phaseA s) hr le_rfl ?_
    have hburst : 1 ≤ s.params.burst := of_decide_eq_true hwf
    obtain ⟨b, hb⟩ := Nat.exists_eq_add_of_le' hburst
    rw [phaseA, hb, Phase.stepsLeft, Nat.sub_self]
  · rw [cycle, hostCycle_of_faulted s hf]
    exact runActions_of_faulted hf _

/-! #### Drawing and `draw_flag` (R242) -/

/-- An instruction that leaves `draw_flag` 0 has found it 0 and has not drawn. -/
theorem Effect.undrawn {s t : State} {i : Instr} (h : Effect s i t) (hflag : t.drawFlag = false) :
    s.drawFlag = false ∧ t.graphics = s.graphics := by
  cases h with
  | clear => cases hflag
  | draw => cases hflag
  | _ => exact ⟨hflag, rfl⟩

theorem instructionStep_undrawn {s t : State} (h : instructionStep s = .next t) (hflag : t.drawFlag = false) :
    s.drawFlag = false ∧ t.graphics = s.graphics := by
  obtain ⟨i, -, hi⟩ | ⟨u, -, hu⟩ := instructionStep_cases s
  · exact (effect_of_exec (hi.symm.trans h)).undrawn hflag
  · cases hu.symm.trans h
    exact ⟨hflag, rfl⟩

theorem engineSteps_undrawn {k : Nat} {s : State} (hflag : (engineSteps k s).drawFlag = false) :
    s.drawFlag = false ∧ (engineSteps k s).graphics = s.graphics := by
  induction k generalizing s with
  | zero => exact ⟨hflag, rfl⟩
  | succ k ih =>
    by_cases hr : s.halt = .running
    · obtain ⟨t, ht⟩ := exists_instructionStep s
      rw [engineSteps_succ hr ht] at hflag ⊢
      obtain ⟨tflag, tgraphics⟩ := ih hflag
      obtain ⟨sflag, sgraphics⟩ := instructionStep_undrawn ht tflag
      exact ⟨sflag, tgraphics.trans sgraphics⟩
    · rw [engineSteps_of_faulted hr] at hflag ⊢
      exact ⟨hflag, rfl⟩

/-- Settles O45: the phases do not draw (O44), and no step of the burst has. -/
theorem noDrawFlagNoDrawing : Obligations.NoDrawFlagNoDrawing := by
  intro s hr hp hwf
  obtain ⟨hdone, hfault⟩ := (cycleIsItsPhases s hwf).1 hr hp
  by_cases hburst : (engineSteps s.params.burst (phaseA s)).halt = .running
  · rw [hdone hburst]
    exact fun hflag => (engineSteps_undrawn (s := phaseA s) hflag).2
  · rw [hfault hburst]
    exact fun hflag => (engineSteps_undrawn (s := phaseA s) hflag).2

/-! #### The idle loop (R121) -/

/-- `s` with its fetched word latched, in phase `p`. -/
def State.latched (s : State) (p : Phase) : State := { s with opcode := s.fetched, phase := p }

/-- A word once latched is fetched again from the same address. -/
@[simp] theorem State.fetched_latched (s : State) (p : Phase) : (s.latched p).fetched = s.fetched := by
  by_cases hpc : s.pc.toNat ≤ 4094
  · rw [s.fetched_of_lt hpc, (s.latched p).fetched_of_lt hpc]
    rfl
  · exact (s.latched p).fetched_of_ge (Nat.lt_of_not_le hpc)

theorem State.latched_latched (s : State) (p q : Phase) : (s.latched p).latched q = s.latched q := by
  rw [State.latched, fetched_latched]
  rfl

section
variable {s : State} {nnn : BitVec 12}

/-- One step of a jump to its own address. -/
theorem instructionStep_jp_self (hi : decode s.fetched = .ok (.jp nnn)) (hpc : s.pc.toNat = nnn.toNat) :
    instructionStep s = .next (s.latched (s.phase.afterStep s.params.burst)) := by
  have target : addrImm nnn = s.pc := BitVec.eq_of_toNat_eq ((toNat_addrImm nnn).trans hpc.symm)
  calc instructionStep s = .next (s.fetchAdvance.setPc (addrImm nnn)) := instructionStep_of_ok hi
    _ = .next (s.fetchAdvance.setPc s.pc) := by rw [target]

/-- Any number of steps of it. -/
theorem engineSteps_jp_self (hr : s.halt = .running) (hi : decode s.fetched = .ok (.jp nnn))
    (hpc : s.pc.toNat = nnn.toNat) (k : Nat) (p : Phase) : ∃ q, engineSteps k (s.latched p) = s.latched q := by
  induction k generalizing p with
  | zero => exact ⟨p, rfl⟩
  | succ k ih =>
    have hstep := instructionStep_jp_self (s := s.latched p) (by rwa [State.fetched_latched]) hpc
    rw [engineSteps_succ (s := s.latched p) hr hstep, State.latched_latched]
    exact ih _

end

/-- Settles O46: the burst leaves the state after phase A but for the latched word, and phases C and D follow (O44). -/
theorem jumpToSelfIdles : Obligations.JumpToSelfIdles := by
  intro s nnn hr hp hwf hi hpc
  obtain ⟨b, hb⟩ := Nat.exists_eq_add_of_le' (of_decide_eq_true hwf : 1 ≤ s.params.burst)
  obtain ⟨p, hburst⟩ : ∃ p, engineSteps s.params.burst (phaseA s) = (phaseA s).latched p := by
    rw [hb, engineSteps_succ (s := phaseA s) hr (instructionStep_jp_self (s := phaseA s) hi hpc)]
    exact engineSteps_jp_self (s := phaseA s) hr hi hpc b _
  have hcycle : cycle s = phaseD (phaseC ((phaseA s).latched p)) := by
    rw [← hburst]
    exact ((cycleIsItsPhases s hwf).1 hr hp).1 (by rw [hburst]; exact hr)
  refine ⟨_, hcycle, ?_, toNat_tickTimer _, toNat_tickTimer _, rfl⟩
  exact (phaseC_soundFlag ((phaseA s).latched p)).trans (Bool.false_or _)

/-! #### The request (R238, R263) -/

/-- How many actions of the core a cycle still takes. -/
def State.actionsLeft (s : State) : Nat :=
  match s.phase with
  | .boot | .idle => 0
  | .flagReset => s.params.burst + 3
  | .burst k => s.params.burst - k + 2
  | .timers => 2
  | .snapshot => 1

/-- An action takes at most one from the actions left, and leaves the host's plan alone. -/
theorem coreAction_actionsLeft {s t : State} (h : coreAction s = .next t) :
    s.actionsLeft ≤ t.actionsLeft + 1 ∧ t.hostPlan = s.hostPlan := by
  obtain ⟨hr, ⟨-, rfl⟩ | ⟨hp, rfl⟩ | ⟨⟨k, hp⟩, hstep⟩ | ⟨hp, rfl⟩ | ⟨hp, rfl⟩⟩ := coreAction_cases h
  · exact ⟨Nat.le_succ _, rfl⟩
  · exact ⟨by simp [State.actionsLeft, hp, phaseA], rfl⟩
  · obtain ⟨tphase, tparams, tplan⟩ := instructionStep_frame hstep
    refine ⟨?_, tplan⟩
    simp only [State.actionsLeft, hp, tphase, tparams, Phase.afterStep]
    split_ifs with hk
    · show s.params.burst - k + 2 ≤ s.params.burst - (k + 1) + 2 + 1; omega
    · show s.params.burst - k + 2 ≤ 2 + 1; omega
  · exact ⟨by simp [State.actionsLeft, hp, phaseC], rfl⟩
  · exact ⟨by simp [State.actionsLeft, hp, phaseD], rfl⟩

theorem busy_of_actionsLeft {s : State} (h : 0 < s.actionsLeft) : s.phase.standsStill = false := by
  cases hp : s.phase with
  | boot | idle => simp [State.actionsLeft, hp] at h
  | _ => rfl

/-- With nothing planned, the steps of the whole machine inside a cycle are the actions of the core. -/
theorem machineSteps_eq_runActions {n : Nat} {s : State} (hplan : s.hostPlan = []) (hn : n ≤ s.actionsLeft) :
    machineSteps n s = runActions n s := by
  induction n generalizing s with
  | zero => rfl
  | succ n ih =>
    have hturn := hostTurn_nil s hplan (cycleRequested_of_busy (busy_of_actionsLeft (by omega)))
    have hstep : step s = coreAction s := by rw [step, hturn, hostWait_nil hplan]
    rw [machineSteps, runActions, hstep]
    cases hcore : coreAction s with
    | next t =>
      obtain ⟨hleft, tplan⟩ := coreAction_actionsLeft hcore
      exact ih (tplan.trans hplan) (by omega)
    | fault f => rfl
    | refused r => rfl

/-- A planned request is performed only by a core that stands still or is faulted. -/
theorem standsStill_of_cycle_turn {s u : State} (hr : s.halt = .running) (h : hostTurn s = some (.cycle, u)) :
    s.phase.standsStill = true := by
  obtain ⟨e, rest, -, hop, hnow, -⟩ | ⟨-, -, hreq⟩ := hostTurn_eq_some h
  · obtain hf | ⟨-, hcycle⟩ := (e.comesNow_iff s).1 hnow
    · exact absurd hr hf
    · exact hcycle hop.symm
  · exact (s.cycleRequested_iff.1 hreq).2.2

/-- Settles O60: the request is one `hostCycle`, and the steps after it are the actions of a cycle, in which no other
operation comes, or the stop of a faulted core. -/
theorem cycleOnlyOnRequest : Obligations.CycleOnlyOnRequest := by
  intro s
  refine ⟨fun hr hp hturn => ?_, fun u hr hturn => ?_, fun u hf hturn => ?_, fun _ hcore hplan => ?_⟩
  · exact (step_of_no_turn hturn).trans (coreAction_of_standsStill hr hp)
  · have hp := standsStill_of_cycle_turn hr hturn
    refine ⟨hp, (step_of_turn hturn).trans ?_⟩
    rw [hostTurn_frame hturn]
    exact congrArg Host.Outcome.next (hostCycle_of_standsStill { s with hostPlan := u.hostPlan } hr hp)
  · rw [step_of_turn hturn, hostTurn_frame hturn]
    exact congrArg Host.Outcome.next (hostCycle_of_faulted { s with hostPlan := u.hostPlan } hf)
  · have hnow : (⟨0, .cycle⟩ : HostEvent).comesNow s = true :=
      (HostEvent.comesNow_iff s _).2 (hcore.imp_right fun hp => ⟨rfl, fun _ => hp⟩)
    have hfirst : step s = .next (hostCycle { s with hostPlan := [] }) :=
      step_of_turn (hostTurn_cons_of_comesNow hplan hnow)
    rw [machineSteps_succ hfirst, cycle]
    by_cases hr : s.halt = .running
    · rw [hostCycle_of_standsStill { s with hostPlan := [] } hr (hcore.resolve_left (not_not.2 hr))]
      exact machineSteps_eq_runActions rfl le_rfl
    · rw [hostCycle_of_faulted { s with hostPlan := [] } hr]
      exact (machineSteps_of_faulted (s := { s with hostPlan := [] }) hr rfl _).trans
        (runActions_of_faulted (s := { s with hostPlan := [] }) hr _).symm

end Sys2Proof.Machine


/-! ### Memory (10_state.md R27): the canonical form (log 9) -/

namespace Sys2Proof.Machine

/-- Where addresses rise strictly, the cell listed for an address is the one a lookup finds. -/
theorem Memory.lookup_eq_some_iff_mem {m : Memory} (h : m.Pairwise fun c d => c.1 < d.1) (a : Nat) (b : Byte) :
    List.lookup a m = some b ↔ (a, b) ∈ m := by
  rw [List.lookup_eq_some_iff]
  constructor
  · rintro ⟨before, after, rfl, -⟩
    simp
  · intro hmem
    obtain ⟨before, after, rfl⟩ := List.append_of_mem hmem
    refine ⟨before, after, rfl, fun c hc => bne_iff_ne.2 ?_⟩
    exact ((List.pairwise_append.1 h).2.2 c hc (a, b) List.mem_cons_self).ne'

/-- In canonical form exactly the bytes are listed that read otherwise than after reset. -/
theorem Memory.mem_iff_read {font : Vector Byte 80} {m : Memory} (h : Memory.wf font m = true) (a : Nat) (b : Byte) :
    (a, b) ∈ m ↔ a < 4096 ∧ b ≠ Memory.unlisted font a ∧ Memory.read font m a = b := by
  obtain ⟨sorted, listed⟩ := (Memory.wf_iff font m).1 h
  rw [← Memory.lookup_eq_some_iff_mem sorted, Memory.read]
  constructor
  · intro hb
    obtain ⟨ha, hne⟩ := listed _ ((Memory.lookup_eq_some_iff_mem sorted a b).1 hb)
    exact ⟨ha, hne, by rw [hb, Option.getD_some]⟩
  · rintro ⟨-, hne, hread⟩
    cases hlookup : List.lookup a m with
    | none => exact absurd (by rw [← hread, hlookup, Option.getD_none]) hne
    | some v => rw [← hread, hlookup, Option.getD_some]

/-- Settles O57: what is listed is determined by what is read, and its order by the addresses. -/
theorem canonicalMemoryIsUnique : Obligations.CanonicalMemoryIsUnique := by
  intro font m m' h h' hread
  have irrefl : Std.Irrefl fun c d : Host.Cell => c.1 < d.1 := ⟨fun c => lt_irrefl c.1⟩
  have antisymm : Std.Antisymm fun c d : Host.Cell => c.1 < d.1 := ⟨fun _ _ hcd hdc => absurd hdc hcd.asymm⟩
  refine ((Memory.wf_iff font m).1 h).1.eq_of_mem_iff ((Memory.wf_iff font m').1 h').1 fun ⟨a, b⟩ => ?_
  rw [Memory.mem_iff_read h, Memory.mem_iff_read h']
  exact and_congr_right fun ha => by rw [hread a ha]

end Sys2Proof.Machine
